-- ==== Sys2Proof/Word.lean ====
section
/-! DEFINITION. The words and the small data types the spec's notation rests on (R7, R8, R111, R145, R150, R24). -/

namespace Sys2Proof

/-- A byte of a packet, a payload or the UART line. -/
abbrev Byte := BitVec 8

/-- A command, payload, response or event word (R113, R116, R117). -/
abbrev Word := BitVec 64

/-- A loco address field (R7). -/
abbrev Addr := BitVec 14

/-- A CV index, CV number minus 1 (R7, R80). -/
abbrev Cvi := BitVec 10

/-- The 12 modes of R111. -/
inductive Mode where
  | dccOperations | dccService
  | decupZpp | decupZsu
  | mduZpp | mduZsu
  | zusi | ulfDccEin | ulfDecupEin | ulfMduEin | ulfSusiv2 | ota
  deriving DecidableEq, Repr, Inhabited

/-- A track symbol `(l0, d0, l1, d1)` of R145, durations in microseconds. -/
structure Symbol where
  l0 : Bool
  d0 : BitVec 15
  l1 : Bool
  d1 : BitVec 15
  deriving DecidableEq, Repr, Inhabited

/-- What a received byte with four 1 bits stands for (R150, R382). -/
inductive BidiSymbol where
  | data (n : BitVec 6)
  | ack
  | nack
  | busy
  | reserved
  deriving DecidableEq, Repr, Inhabited

/-- The persisted fields of a loco record, what the store's `get(address)` returns (R24, R230). -/
structure NvRecord where
  name : String
  mode : Byte
  speedSteps : BitVec 3
  rvvvvvvv : Byte
  f31_0 : BitVec 32
  deriving DecidableEq, Repr, Inhabited

/-- The agents of R5. -/
inductive Agent where
  | host | arb | sched | dccdrv | cutout | uartrx | decupdrv | decupedge | mdudrv | mducap | svcack | analog | ext | time
  deriving DecidableEq, Repr, Inhabited

/-- The agents that issue commands (R200). -/
inductive Issuer where
  | host | analog | ext
  deriving DecidableEq, Repr, Inhabited

/-- One move of the block or of its environment: whose atomic step is taken next, with the free inputs of that step.
An init or teardown step carries its draw `hwOk` (R504 (e)). -/
inductive Move where
  /-- HOST's step (R231). -/
  | host
  /-- SCHED's step (R253 to R290). -/
  | sched
  /-- DCCDRV's step (R350). -/
  | dccdrv (hwOk : Bool)
  /-- CUTOUT's step (R360). -/
  | cutout
  /-- DECUPDRV's step (R401 to R412). -/
  | decupdrv (hwOk : Bool)
  /-- MDUDRV's step (R431 to R439). -/
  | mdudrv (hwOk : Bool)
  /-- TIME advances by one microsecond (R9). -/
  | time
  /-- `@UART b` (R370). -/
  | uart (b : Byte)
  /-- `@EDGE` (R406, R436). -/
  | edge
  /-- `@SAMPLE x` (R461). -/
  | sample (x : BitVec 16)
  /-- `@REPLY_DECUP` (R415). -/
  | replyDecup
  /-- `@REPLY_MDU` (R442). -/
  | replyMdu
  /-- ANALOG executes the command at the head of its port (R231). -/
  | analog
  /-- EXT executes the command at the head of its port (R231). -/
  | ext
  /-- The outside puts whole commands on an issuer's command port (R631). -/
  | deliver (who : Issuer) (words : List Word)
  deriving DecidableEq, Repr, Inhabited

end Sys2Proof
end

