-- ==== Sys2Proof/Syntax.lean ====
section
/-! DEFINITION. The instructions: one constructor for each row of spec/opcode_table.json. Operands are the row's fields, as
bits, whatever their value: a command with a field out of range is an instruction that answers `BAD_OPERAND` (R122). -/

namespace Sys2Proof

/-- The rows of the opcode table. In the packet rows `x` is the checksum byte as it stands in the packet (R132). -/
inductive Instr where
  -- host commands (R114)
  | acquire (mode : BitVec 8)
  | suspend (mode : BitVec 8)
  | release (mode : BitVec 8)
  | short
  | powerOn
  | locoDrive (addr : Addr) (steps : BitVec 3) (rv : Byte)
  | locoFunction (addr : Addr) (fn : BitVec 5) (on : Bool)
  | locoMode (addr : Addr) (steps : BitVec 3)
  | locoInfo (addr : Addr)
  | locoRailcom (addr : Addr)
  | locoErase (addr : Addr)
  | locoEraseAll
  | cvRead (cvi : Cvi)
  | cvWrite (cvi : Cvi) (data : Byte)
  | cvPomRead (addr : Addr) (cvi : Cvi)
  | cvPomWrite (addr : Addr) (cvi : Cvi) (data : Byte)
  | sendFront (bytes : List Byte)
  | sendBack (bytes : List Byte)
  | decupTx (bytes : List Byte)
  | mduTx (bytes : List Byte)
  | cfgWrite (index : BitVec 8) (data : Byte)
  | cfgRead (index : BitVec 8)
  -- DCC packets (R130 to R141)
  | dccIdle
  | dccReset
  | dccSpeed14 (addr : Addr) (dir : Bool) (f0 : Bool) (speed : BitVec 4) (x : Byte)
  | dccSpeed28 (addr : Addr) (dir : Bool) (code : BitVec 5) (x : Byte)
  | dccSpeed128 (addr : Addr) (dir : Bool) (speed : BitVec 7) (x : Byte)
  | dccFg1 (addr : Addr) (f : BitVec 5) (x : Byte)
  | dccFg2a (addr : Addr) (f : BitVec 4) (x : Byte)
  | dccFg2b (addr : Addr) (f : BitVec 4) (x : Byte)
  | dccFg3 (addr : Addr) (f : BitVec 8) (x : Byte)
  | dccFg4 (addr : Addr) (f : BitVec 8) (x : Byte)
  | dccFg5 (addr : Addr) (f : BitVec 3) (x : Byte)
  | dccPomRead (addr : Addr) (cvi : Cvi) (x : Byte)
  | dccPomWrite (addr : Addr) (cvi : Cvi) (data : Byte) (x : Byte)
  | dccSvcVerifyByte (cvi : Cvi) (data : Byte) (x : Byte)
  | dccSvcWriteByte (cvi : Cvi) (data : Byte) (x : Byte)
  | dccSvcVerifyBit (cvi : Cvi) (bit : Bool) (pos : BitVec 3) (x : Byte)
  -- BiDi datagrams (R151, R152)
  | bidiAppPom (value : Byte)
  | bidiAppDyn (dv : Byte) (subindex : BitVec 6)
  -- output words (R116, R117); `ext` is the second word's bits [55:0] of `PERSIST`
  | response (status : Byte) (value : BitVec 56)
  | event (ev : Byte) (addr : Addr) (cvi : Cvi) (data : Byte) (ext : Option (BitVec 56))
  deriving DecidableEq, Repr

end Sys2Proof
end

