-- ==== Sys2Proof/Decode.lean ====
section
/-! DEFINITION. Decoder and encoder of every row of the opcode table: command words (R113 to R115, R122), DCC packets (R130 to
R141), BiDi datagrams (R151, R152), response words (R116) and event words (R117). The spaces of words overlap between ports, so a
`Code` says on which port its words stand. -/

namespace Sys2Proof

/-! ### Modes -/

/-- The mode ids of R111. -/
def Mode.id : Mode → BitVec 8
  | .dccOperations => 0x01#8
  | .dccService => 0x02#8
  | .decupZpp => 0x03#8
  | .decupZsu => 0x04#8
  | .mduZpp => 0x05#8
  | .mduZsu => 0x06#8
  | .zusi => 0x07#8
  | .ulfDccEin => 0x08#8
  | .ulfDecupEin => 0x09#8
  | .ulfMduEin => 0x0A#8
  | .ulfSusiv2 => 0x0B#8
  | .ota => 0x0C#8

/-- The mode of an id, none for a reserved id (R111). -/
def Mode.ofId (b : BitVec 8) : Option Mode :=
  match b.toNat with
  | 0x01 => some .dccOperations
  | 0x02 => some .dccService
  | 0x03 => some .decupZpp
  | 0x04 => some .decupZsu
  | 0x05 => some .mduZpp
  | 0x06 => some .mduZsu
  | 0x07 => some .zusi
  | 0x08 => some .ulfDccEin
  | 0x09 => some .ulfDecupEin
  | 0x0A => some .ulfMduEin
  | 0x0B => some .ulfSusiv2
  | 0x0C => some .ota
  | _ => none

/-- The number `N` of drive steps of a speed-steps code, none for an illegal code (R112, R233). -/
def stepsCount (c : BitVec 3) : Option Nat :=
  match c.toNat with
  | 0 => some 14
  | 2 => some 28
  | 4 => some 126
  | _ => none

/-! ### Command words (R113 to R115) -/

/-- The fields of a command word (R113). -/
structure CmdFields where
  op : BitVec 8
  addr : Addr := 0
  cvi : Cvi := 0
  data : Byte := 0
  aux : BitVec 8 := 0
  len : BitVec 8 := 0
  rsv : BitVec 8 := 0
  deriving DecidableEq, Repr

/-- The word that holds these fields (R113). -/
def CmdFields.toWord (f : CmdFields) : Word :=
  (f.op ++ f.addr ++ f.cvi ++ f.data ++ f.aux ++ f.len ++ f.rsv).cast (by decide)

/-- The fields of a word (R113). -/
def CmdFields.ofWord (w : Word) : CmdFields where
  op := w.extractLsb' 56 8
  addr := w.extractLsb' 42 14
  cvi := w.extractLsb' 32 10
  data := w.extractLsb' 24 8
  aux := w.extractLsb' 16 8
  len := w.extractLsb' 8 8
  rsv := w.extractLsb' 0 8

/-- The listed opcodes (R114). -/
inductive Opcode where
  | acquire | suspend | release | short | powerOn
  | locoDrive | locoFunction | locoMode | locoInfo | locoRailcom | locoErase | locoEraseAll
  | cvRead | cvWrite | cvPomRead | cvPomWrite
  | sendFront | sendBack | decupTx | mduTx
  | cfgWrite | cfgRead
  deriving DecidableEq, Repr

/-- The `OP` byte of an opcode (R114). -/
def Opcode.byte : Opcode → BitVec 8
  | .acquire => 0x01#8
  | .suspend => 0x02#8
  | .release => 0x03#8
  | .short => 0x04#8
  | .powerOn => 0x05#8
  | .locoDrive => 0x10#8
  | .locoFunction => 0x11#8
  | .locoMode => 0x12#8
  | .locoInfo => 0x13#8
  | .locoRailcom => 0x14#8
  | .locoErase => 0x15#8
  | .locoEraseAll => 0x16#8
  | .cvRead => 0x20#8
  | .cvWrite => 0x21#8
  | .cvPomRead => 0x22#8
  | .cvPomWrite => 0x23#8
  | .sendFront => 0x30#8
  | .sendBack => 0x31#8
  | .decupTx => 0x38#8
  | .mduTx => 0x39#8
  | .cfgWrite => 0x40#8
  | .cfgRead => 0x41#8

/-- The opcode of an `OP` byte, none for a byte that R114 does not list (R122 (a)). -/
def Opcode.ofByte (b : BitVec 8) : Option Opcode :=
  match b.toNat with
  | 0x01 => some .acquire
  | 0x02 => some .suspend
  | 0x03 => some .release
  | 0x04 => some .short
  | 0x05 => some .powerOn
  | 0x10 => some .locoDrive
  | 0x11 => some .locoFunction
  | 0x12 => some .locoMode
  | 0x13 => some .locoInfo
  | 0x14 => some .locoRailcom
  | 0x15 => some .locoErase
  | 0x16 => some .locoEraseAll
  | 0x20 => some .cvRead
  | 0x21 => some .cvWrite
  | 0x22 => some .cvPomRead
  | 0x23 => some .cvPomWrite
  | 0x30 => some .sendFront
  | 0x31 => some .sendBack
  | 0x38 => some .decupTx
  | 0x39 => some .mduTx
  | 0x40 => some .cfgWrite
  | 0x41 => some .cfgRead
  | _ => none

/-- The opcodes followed by payload words (R114, R115). -/
def Opcode.hasPayload : Opcode → Bool
  | .sendFront | .sendBack | .decupTx | .mduTx => true
  | _ => false

/-- The opcodes ANALOG and EXT may issue, 0x01..0x05 (R231, R526). -/
def Opcode.isArbitration : Opcode → Bool
  | .acquire | .suspend | .release | .short | .powerOn => true
  | _ => false

/-- How many payload words follow a command word, from `OP` and `LEN` alone (R115). -/
def payloadCount (w : Word) : Nat :=
  match Opcode.ofByte (CmdFields.ofWord w).op with
  | some o => if o.hasPayload then ((CmdFields.ofWord w).len.toNat + 7) / 8 else 0
  | none => 0

/-- The eight bytes of a payload word, byte 0 in bits 63:56 (R115). -/
def wordBytes (w : Word) : List Byte :=
  [w.extractLsb' 56 8, w.extractLsb' 48 8, w.extractLsb' 40 8, w.extractLsb' 32 8,
   w.extractLsb' 24 8, w.extractLsb' 16 8, w.extractLsb' 8 8, w.extractLsb' 0 8]

/-- The payload word that holds the first eight bytes of a list, missing bytes 0 (R115). -/
def bytesWord (bs : List Byte) : Word :=
  (bs.getD 0 0 ++ bs.getD 1 0 ++ bs.getD 2 0 ++ bs.getD 3 0 ++ bs.getD 4 0 ++ bs.getD 5 0 ++ bs.getD 6 0
    ++ bs.getD 7 0).cast (by decide)

/-- The first `n` payload bytes; the bytes beyond `LEN` are ignored (R115). -/
def unpackPayload (ws : List Word) (n : Nat) : List Byte :=
  (ws.flatMap wordBytes).take n

/-- `k` payload words that hold a byte list (R115). -/
def packWords : Nat → List Byte → List Word
  | 0, _ => []
  | k + 1, bs => bytesWord bs :: packWords k (bs.drop 8)

/-- The `ceil(LEN/8)` payload words of a byte list (R115). -/
def packPayload (bs : List Byte) : List Word :=
  packWords ((bs.length + 7) / 8) bs

/-- Why words are no instruction. -/
inductive Reject where
  /-- an `OP` that R114 does not list: status ILLEGAL (R122 (a)) -/
  | illegal
  /-- `RSV` or a field the opcode does not use is not 0: status BAD_OPERAND (R122 (b)) -/
  | badOperand
  /-- a command word without all its payload words, or no word at all (R631: never sent) -/
  | partialCommand
  /-- a byte list that is none of the packet formats of R131 to R141 (R143: still sent verbatim) -/
  | notATablePacket
  /-- symbols that are neither `app:pom` nor `app:dyn` (R384) -/
  | notADatagram
  /-- a status byte that R116 does not list -/
  | notAStatus
  /-- an event code that R117 does not list, or a word that is not laid out as R117 says -/
  | notAnEvent
  deriving DecidableEq, Repr

/-- `RSV` and the fields an opcode does not use, all of which must be 0 (R114, R122 (b)). -/
def CmdFields.unusedZero (f : CmdFields) : Opcode → Bool
  | .acquire | .suspend | .release => f.rsv = 0 && f.addr = 0 && f.cvi = 0 && f.data = 0 && f.len = 0
  | .short | .powerOn | .locoEraseAll =>
    f.rsv = 0 && f.addr = 0 && f.cvi = 0 && f.data = 0 && f.aux = 0 && f.len = 0
  | .locoDrive => f.rsv = 0 && f.cvi = 0 && f.aux.extractLsb' 3 5 = 0 && f.len = 0
  | .locoFunction =>
    f.rsv = 0 && f.cvi = 0 && f.aux.extractLsb' 5 3 = 0 && f.data.extractLsb' 1 7 = 0 && f.len = 0
  | .locoMode => f.rsv = 0 && f.cvi = 0 && f.data = 0 && f.aux.extractLsb' 3 5 = 0 && f.len = 0
  | .locoInfo | .locoRailcom | .locoErase => f.rsv = 0 && f.cvi = 0 && f.data = 0 && f.aux = 0 && f.len = 0
  | .cvRead => f.rsv = 0 && f.addr = 0 && f.data = 0 && f.aux = 0 && f.len = 0
  | .cvWrite => f.rsv = 0 && f.addr = 0 && f.aux = 0 && f.len = 0
  | .cvPomRead => f.rsv = 0 && f.data = 0 && f.aux = 0 && f.len = 0
  | .cvPomWrite => f.rsv = 0 && f.aux = 0 && f.len = 0
  | .sendFront | .sendBack | .decupTx | .mduTx => f.rsv = 0 && f.addr = 0 && f.cvi = 0 && f.data = 0 && f.aux = 0
  | .cfgWrite => f.rsv = 0 && f.addr = 0 && f.cvi = 0 && f.len = 0
  | .cfgRead => f.rsv = 0 && f.addr = 0 && f.cvi = 0 && f.data = 0 && f.len = 0

/-- The instruction of an opcode's fields and payload (R114). -/
def CmdFields.instr (f : CmdFields) (payload : List Byte) : Opcode → Instr
  | .acquire => .acquire f.aux
  | .suspend => .suspend f.aux
  | .release => .release f.aux
  | .short => .short
  | .powerOn => .powerOn
  | .locoDrive => .locoDrive f.addr (f.aux.extractLsb' 0 3) f.data
  | .locoFunction => .locoFunction f.addr (f.aux.extractLsb' 0 5) (f.data.getLsbD 0)
  | .locoMode => .locoMode f.addr (f.aux.extractLsb' 0 3)
  | .locoInfo => .locoInfo f.addr
  | .locoRailcom => .locoRailcom f.addr
  | .locoErase => .locoErase f.addr
  | .locoEraseAll => .locoEraseAll
  | .cvRead => .cvRead f.cvi
  | .cvWrite => .cvWrite f.cvi f.data
  | .cvPomRead => .cvPomRead f.addr f.cvi
  | .cvPomWrite => .cvPomWrite f.addr f.cvi f.data
  | .sendFront => .sendFront payload
  | .sendBack => .sendBack payload
  | .decupTx => .decupTx payload
  | .mduTx => .mduTx payload
  | .cfgWrite => .cfgWrite f.aux f.data
  | .cfgRead => .cfgRead f.aux

/-- A command word with its payload bytes: the first two checks of R232. -/
def decodeCommand (w : Word) (payload : List Byte) : Except Reject Instr :=
  match Opcode.ofByte (CmdFields.ofWord w).op with
  | none => .error .illegal
  | some o =>
    if (CmdFields.ofWord w).unusedZero o then .ok ((CmdFields.ofWord w).instr payload o) else .error .badOperand

/-- The command fields of a command; none for a row that is no command. -/
def commandFields : Instr → Option CmdFields
  | .acquire m => some { op := Opcode.acquire.byte, aux := m }
  | .suspend m => some { op := Opcode.suspend.byte, aux := m }
  | .release m => some { op := Opcode.release.byte, aux := m }
  | .short => some { op := Opcode.short.byte }
  | .powerOn => some { op := Opcode.powerOn.byte }
  | .locoDrive a c d => some { op := Opcode.locoDrive.byte, addr := a, aux := c.setWidth 8, data := d }
  | .locoFunction a i on =>
    some { op := Opcode.locoFunction.byte, addr := a, aux := i.setWidth 8, data := (BitVec.ofBool on).setWidth 8 }
  | .locoMode a c => some { op := Opcode.locoMode.byte, addr := a, aux := c.setWidth 8 }
  | .locoInfo a => some { op := Opcode.locoInfo.byte, addr := a }
  | .locoRailcom a => some { op := Opcode.locoRailcom.byte, addr := a }
  | .locoErase a => some { op := Opcode.locoErase.byte, addr := a }
  | .locoEraseAll => some { op := Opcode.locoEraseAll.byte }
  | .cvRead k => some { op := Opcode.cvRead.byte, cvi := k }
  | .cvWrite k d => some { op := Opcode.cvWrite.byte, cvi := k, data := d }
  | .cvPomRead a k => some { op := Opcode.cvPomRead.byte, addr := a, cvi := k }
  | .cvPomWrite a k d => some { op := Opcode.cvPomWrite.byte, addr := a, cvi := k, data := d }
  | .sendFront p => some { op := Opcode.sendFront.byte, len := BitVec.ofNat 8 p.length }
  | .sendBack p => some { op := Opcode.sendBack.byte, len := BitVec.ofNat 8 p.length }
  | .decupTx p => some { op := Opcode.decupTx.byte, len := BitVec.ofNat 8 p.length }
  | .mduTx p => some { op := Opcode.mduTx.byte, len := BitVec.ofNat 8 p.length }
  | .cfgWrite i d => some { op := Opcode.cfgWrite.byte, aux := i, data := d }
  | .cfgRead i => some { op := Opcode.cfgRead.byte, aux := i }
  | _ => none

/-- The payload bytes of a command (R115). -/
def commandPayload : Instr → List Byte
  | .sendFront p | .sendBack p | .decupTx p | .mduTx p => p
  | _ => []

/-! ### DCC packets (R130 to R141) -/

/-- XOR of all bytes of a list (R132). -/
def xorAll (bs : List Byte) : Byte :=
  bs.foldl (· ^^^ ·) 0

/-- The address bytes of R131 and R300. -/
def addrBytes (a : Addr) : List Byte :=
  if a.toNat ≤ 127 then [a.extractLsb' 0 8]
  else [(0b11#2 ++ a.extractLsb' 8 6).cast (by decide), a.extractLsb' 0 8]

/-- What besides the bytes tells packet rows apart: whether the packet is sent in `DCCService` (there the first byte of a
service packet is no address, R141, R308), and whether the addressed loco runs with 14 speed steps (the rows DCC_SPEED14 and
DCC_SPEED28 have one pattern of bits, R134, R135, R302). -/
structure PacketCtx where
  service : Bool := false
  steps14 : Bool := false
  deriving DecidableEq, Repr

/-- The bytes of a packet row before its checksum byte (R131, R133 to R141); none for a row that is no DCC packet. -/
def packetBody : Instr → Option (List Byte)
  | .dccIdle => some [0xFF#8, 0x00#8]
  | .dccReset => some [0x00#8, 0x00#8]
  | .dccSpeed14 a r c v _ =>
    some (addrBytes a ++ [(0b01#2 ++ BitVec.ofBool r ++ BitVec.ofBool c ++ v).cast (by decide)])
  | .dccSpeed28 a r c _ =>
    some (addrBytes a ++ [(0b01#2 ++ BitVec.ofBool r ++ c.extractLsb' 0 1 ++ c.extractLsb' 1 4).cast (by decide)])
  | .dccSpeed128 a r v _ => some (addrBytes a ++ [0x3F#8, (BitVec.ofBool r ++ v).cast (by decide)])
  | .dccFg1 a f _ => some (addrBytes a ++ [(0b100#3 ++ f.extractLsb' 0 1 ++ f.extractLsb' 1 4).cast (by decide)])
  | .dccFg2a a f _ => some (addrBytes a ++ [(0b1011#4 ++ f).cast (by decide)])
  | .dccFg2b a f _ => some (addrBytes a ++ [(0b1010#4 ++ f).cast (by decide)])
  | .dccFg3 a f _ => some (addrBytes a ++ [0xDE#8, f])
  | .dccFg4 a f _ => some (addrBytes a ++ [0xDF#8, f])
  | .dccFg5 a f _ => some (addrBytes a ++ [0xD8#8, f.setWidth 8])
  | .dccPomRead a k _ =>
    some (addrBytes a ++ [(0b111001#6 ++ k.extractLsb' 8 2).cast (by decide), k.extractLsb' 0 8, 0x00#8])
  | .dccPomWrite a k d _ =>
    some (addrBytes a ++ [(0b111011#6 ++ k.extractLsb' 8 2).cast (by decide), k.extractLsb' 0 8, d])
  | .dccSvcVerifyByte k d _ => some [(0b011101#6 ++ k.extractLsb' 8 2).cast (by decide), k.extractLsb' 0 8, d]
  | .dccSvcWriteByte k d _ => some [(0b011111#6 ++ k.extractLsb' 8 2).cast (by decide), k.extractLsb' 0 8, d]
  | .dccSvcVerifyBit k v i _ =>
    some [(0b011110#6 ++ k.extractLsb' 8 2).cast (by decide), k.extractLsb' 0 8,
      (0b1110#4 ++ BitVec.ofBool v ++ i).cast (by decide)]
  | _ => none

/-- The checksum byte a packet row carries (the table's field X, R132). -/
def packetX : Instr → Byte
  | .dccIdle => 0xFF#8
  | .dccReset => 0x00#8
  | .dccSpeed14 _ _ _ _ x | .dccSpeed28 _ _ _ x | .dccSpeed128 _ _ _ x => x
  | .dccFg1 _ _ x | .dccFg2a _ _ x | .dccFg2b _ _ x | .dccFg3 _ _ x | .dccFg4 _ _ x | .dccFg5 _ _ x => x
  | .dccPomRead _ _ x | .dccPomWrite _ _ _ x => x
  | .dccSvcVerifyByte _ _ x | .dccSvcWriteByte _ _ x | .dccSvcVerifyBit _ _ _ x => x
  | _ => 0

/-- All bytes of a packet row; empty for a row that is no DCC packet. -/
def packetBytes (i : Instr) : List Byte :=
  match packetBody i with
  | some bs => bs ++ [packetX i]
  | none => []

/-- The context in which a packet row is written. -/
def packetCtx : Instr → PacketCtx
  | .dccSpeed14 .. => { steps14 := true }
  | .dccSvcVerifyByte .. | .dccSvcWriteByte .. | .dccSvcVerifyBit .. => { service := true }
  | _ => {}

/-- The address a packet starts with and the bytes after it: a byte below 0x80 is a short address (0 is broadcast), 0xC0..0xE7
begins a long address of at least 128 (R131). -/
def splitAddress : List Byte → Option (Addr × List Byte)
  | [] => none
  | b0 :: rest =>
    if b0.toNat ≤ 127 then some (b0.setWidth 14, rest)
    else if 0xC0 ≤ b0.toNat ∧ b0.toNat ≤ 0xE7 then
      match rest with
      | [] => none
      | b1 :: rest' =>
        let a : Addr := (b0.extractLsb' 0 6 ++ b1).cast (by decide)
        if 128 ≤ a.toNat then some (a, rest') else none
    else none

/-- A one-byte instruction and the checksum (R134, R135, R137, R138). -/
def decodeOneByte (steps14 : Bool) (a : Addr) (i x : Byte) : Option Instr :=
  if i.extractLsb' 6 2 = 0b01#2 then
    if steps14 then some (.dccSpeed14 a (i.getLsbD 5) (i.getLsbD 4) (i.extractLsb' 0 4) x)
    else some (.dccSpeed28 a (i.getLsbD 5) ((i.extractLsb' 0 4 ++ i.extractLsb' 4 1).cast (by decide)) x)
  else if i.extractLsb' 5 3 = 0b100#3 then
    some (.dccFg1 a ((i.extractLsb' 0 4 ++ i.extractLsb' 4 1).cast (by decide)) x)
  else if i.extractLsb' 4 4 = 0b1011#4 then some (.dccFg2a a (i.extractLsb' 0 4) x)
  else if i.extractLsb' 4 4 = 0b1010#4 then some (.dccFg2b a (i.extractLsb' 0 4) x)
  else none

/-- A two-byte instruction and the checksum (R136, R139). -/
def decodeTwoBytes (a : Addr) (i d x : Byte) : Option Instr :=
  if i = 0x3F#8 then some (.dccSpeed128 a (d.getLsbD 7) (d.extractLsb' 0 7) x)
  else if i = 0xDE#8 then some (.dccFg3 a d x)
  else if i = 0xDF#8 then some (.dccFg4 a d x)
  else if i = 0xD8#8 ∧ d.extractLsb' 3 5 = 0 then some (.dccFg5 a (d.extractLsb' 0 3) x)
  else none

/-- A three-byte instruction and the checksum (R140). -/
def decodeThreeBytes (a : Addr) (i k d x : Byte) : Option Instr :=
  let cvi : Cvi := (i.extractLsb' 0 2 ++ k).cast (by decide)
  if i.extractLsb' 2 6 = 0b111001#6 ∧ d = 0 then some (.dccPomRead a cvi x)
  else if i.extractLsb' 2 6 = 0b111011#6 then some (.dccPomWrite a cvi d x)
  else none

/-- A service-mode packet (R141). -/
def decodeService (i k d x : Byte) : Option Instr :=
  let cvi : Cvi := (i.extractLsb' 0 2 ++ k).cast (by decide)
  if i.extractLsb' 2 6 = 0b011101#6 then some (.dccSvcVerifyByte cvi d x)
  else if i.extractLsb' 2 6 = 0b011111#6 then some (.dccSvcWriteByte cvi d x)
  else if i.extractLsb' 2 6 = 0b011110#6 ∧ d.extractLsb' 4 4 = 0b1110#4 then
    some (.dccSvcVerifyBit cvi (d.getLsbD 3) (d.extractLsb' 0 3) x)
  else none

/-- A packet that begins with an address (R130, R131). -/
def decodeAddressed (steps14 : Bool) (bs : List Byte) : Option Instr :=
  match splitAddress bs with
  | some (a, [i, x]) => decodeOneByte steps14 a i x
  | some (a, [i, d, x]) => decodeTwoBytes a i d x
  | some (a, [i, k, d, x]) => decodeThreeBytes a i k d x
  | _ => none

/-- The packet row of a byte list in its context (R130 to R141). The checksum byte is read, not checked (R354 sends it as it
stands). -/
def decodePacket (ctx : PacketCtx) (bs : List Byte) : Except Reject Instr :=
  if bs = [0xFF#8, 0x00#8, 0xFF#8] then .ok .dccIdle
  else if bs = [0x00#8, 0x00#8, 0x00#8] then .ok .dccReset
  else
    let service : Option Instr :=
      match bs with
      | [i, k, d, x] => if ctx.service then decodeService i k d x else none
      | _ => none
    match service with
    | some i => .ok i
    | none =>
      match decodeAddressed ctx.steps14 bs with
      | some i => .ok i
      | none => .error .notATablePacket

/-! ### BiDi datagrams (R151, R152) -/

/-- The data symbols of a datagram, application id in the top four bits of the first (R151, R152). -/
def datagramSymbols : Instr → Option (List (BitVec 6))
  | .bidiAppPom v => some [(0#4 ++ v.extractLsb' 6 2).cast (by decide), v.extractLsb' 0 6]
  | .bidiAppDyn d s => some [(7#4 ++ d.extractLsb' 6 2).cast (by decide), d.extractLsb' 0 6, s]
  | _ => none

/-- The datagram at the head of a list of symbols, with how many symbols it takes: R383 (c). None means that the parse stops
there: a symbol is missing or is no data, or the id is another one (R384). -/
def datagramHead : List BidiSymbol → Option (Instr × Nat)
  | .data n :: rest =>
    if n.extractLsb' 2 4 = 0#4 then
      match rest with
      | .data m :: _ => some (.bidiAppPom ((n.extractLsb' 0 2 ++ m).cast (by decide)), 2)
      | _ => none
    else if n.extractLsb' 2 4 = 7#4 then
      match rest with
      | .data m :: .data s :: _ => some (.bidiAppDyn ((n.extractLsb' 0 2 ++ m).cast (by decide)) s, 3)
      | _ => none
    else none
  | _ => none

/-- The datagram that a list of data symbols is, whole. -/
def decodeDatagram (syms : List (BitVec 6)) : Except Reject Instr :=
  match datagramHead (syms.map .data) with
  | some (i, n) => if n = syms.length then .ok i else .error .notADatagram
  | none => .error .notADatagram

/-- The 64 data bytes of R150, in the order of their values 0x00..0x3F. -/
def bidiDataBytes : List Byte :=
  [0xAC#8, 0xAA#8, 0xA9#8, 0xA5#8, 0xA3#8, 0xA6#8, 0x9C#8, 0x9A#8,
   0x99#8, 0x95#8, 0x93#8, 0x96#8, 0x8E#8, 0x8D#8, 0x8B#8, 0xB1#8,
   0xB2#8, 0xB4#8, 0xB8#8, 0x74#8, 0x72#8, 0x6C#8, 0x6A#8, 0x69#8,
   0x65#8, 0x63#8, 0x66#8, 0x5C#8, 0x5A#8, 0x59#8, 0x55#8, 0x53#8]
  ++
  [0x56#8, 0x4E#8, 0x4D#8, 0x4B#8, 0x47#8, 0x71#8, 0xE8#8, 0xE4#8,
   0xE2#8, 0xD1#8, 0xC9#8, 0xC5#8, 0xD8#8, 0xD4#8, 0xD2#8, 0xCA#8,
   0xC6#8, 0xCC#8, 0x78#8, 0x17#8, 0x1B#8, 0x1D#8, 0x1E#8, 0x2E#8,
   0x36#8, 0x3A#8, 0x27#8, 0x2B#8, 0x2D#8, 0x35#8, 0x39#8, 0x33#8]

/-- The default of `BIDI_DECODE` (R150). A byte that R150 does not list reads as reserved; no rule looks one up, since its
popcount is not 4 (R381). -/
def bidiDefaultDecode (b : Byte) : BidiSymbol :=
  if b = 0x0F#8 ∨ b = 0xF0#8 then .ack
  else if b = 0x3C#8 then .nack
  else if b = 0xE1#8 then .busy
  else
    match bidiDataBytes.findIdx? (· == b) with
    | some n => .data (BitVec.ofNat 6 n)
    | none => .reserved

/-- The byte that carries a data value in the table of R150. -/
def bidiDefaultEncode (n : BitVec 6) : Byte :=
  bidiDataBytes.getD n.toNat 0

/-! ### Response and event words (R116, R117) -/

/-- A response word (R116). -/
def responseWord (status : Byte) (value : BitVec 56) : Word :=
  (status ++ value).cast (by decide)

/-- An event word (R117). -/
def eventWord (ev : Byte) (addr : Addr) (cvi : Cvi) (data : Byte) : Word :=
  (ev ++ addr ++ cvi ++ data ++ 0#24).cast (by decide)

/-- The words of an event: `PERSIST` (code 9) has a second one, with bits [63:56] 0 (R117). -/
def eventWords (ev : Byte) (addr : Addr) (cvi : Cvi) (data : Byte) (ext : Option (BitVec 56)) : List Word :=
  match ext with
  | none => [eventWord ev addr cvi data]
  | some e => [eventWord ev addr cvi data, (0#8 ++ e).cast (by decide)]

/-- A word on a response port (R116). -/
def decodeResponse (w : Word) : Except Reject Instr :=
  if (w.extractLsb' 56 8).toNat ≤ 7 then .ok (.response (w.extractLsb' 56 8) (w.extractLsb' 0 56))
  else .error .notAStatus

/-- The words of one event on the event port (R117). -/
def decodeEvent (ws : List Word) : Except Reject Instr :=
  match ws with
  | [w] =>
    let ev := w.extractLsb' 56 8
    if 1 ≤ ev.toNat ∧ ev.toNat ≤ 11 ∧ ev ≠ 9#8 ∧ w.extractLsb' 0 24 = 0 then
      .ok (.event ev (w.extractLsb' 42 14) (w.extractLsb' 32 10) (w.extractLsb' 24 8) none)
    else .error .notAnEvent
  | [w, e] =>
    let ev := w.extractLsb' 56 8
    if ev = 9#8 ∧ w.extractLsb' 0 24 = 0 ∧ e.extractLsb' 56 8 = 0 then
      .ok (.event ev (w.extractLsb' 42 14) (w.extractLsb' 32 10) (w.extractLsb' 24 8) (some (e.extractLsb' 0 56)))
    else .error .notAnEvent
  | _ => .error .notAnEvent

/-! ### Symbols and time (R145) -/

/-- The duration of a symbol. -/
def symbolDur (x : Symbol) : Nat :=
  x.d0.toNat + x.d1.toNat

/-- The duration of a list of symbols. -/
def symbolsDur (xs : List Symbol) : Nat :=
  (xs.map symbolDur).sum

/-! ### One decoder and one encoder over all ports -/

/-- Words as they stand on one of the block's ports or queues. -/
inductive Code where
  /-- a command port: a command word and its payload words (R113) -/
  | command (words : List Word)
  /-- a DCC queue: the bytes of a packet (R130) -/
  | packet (ctx : PacketCtx) (bytes : List Byte)
  /-- the feedback path: the data symbols of one datagram (R151) -/
  | datagram (symbols : List (BitVec 6))
  /-- a response port (R116) -/
  | response (word : Word)
  /-- the event port (R117) -/
  | event (words : List Word)
  deriving DecidableEq, Repr

/-- The decoder, total on any words and rejecting by name. -/
def decode : Code → Except Reject Instr
  | .command [] => .error .partialCommand
  | .command (w :: rest) =>
    if rest.length = payloadCount w then
      decodeCommand w (unpackPayload rest (CmdFields.ofWord w).len.toNat)
    else .error .partialCommand
  | .packet ctx bs => decodePacket ctx bs
  | .datagram syms => decodeDatagram syms
  | .response w => decodeResponse w
  | .event ws => decodeEvent ws

/-- The words of an instruction, on its port. -/
def encode (i : Instr) : Code :=
  match i with
  | .response st v => .response (responseWord st v)
  | .event ev a k d e => .event (eventWords ev a k d e)
  | i =>
    match commandFields i, packetBody i, datagramSymbols i with
    | some f, _, _ => .command (f.toWord :: packPayload (commandPayload i))
    | none, some _, _ => .packet (packetCtx i) (packetBytes i)
    | none, none, some s => .datagram s
    | none, none, none => .command []

/-! ### The words as the opcode table numbers them -/

/-- `n` bytes of a number, most significant first, as the table writes a packet. -/
def tableBytes : Nat → Nat → List Byte
  | 0, _ => []
  | n + 1, w => BitVec.ofNat 8 (w >>> (8 * n)) :: tableBytes n w

/-- `n` 6-bit symbols of a number, first symbol most significant (R151). -/
def tableSymbols : Nat → Nat → List (BitVec 6)
  | 0, _ => []
  | n + 1, w => BitVec.ofNat 6 (w >>> (6 * n)) :: tableSymbols n w

/-- A table word as a command, with payload words of zeros. -/
def tableCommand (w : Nat) : Code :=
  .command (BitVec.ofNat 64 w :: List.replicate (payloadCount (BitVec.ofNat 64 w)) 0)

/-- A table word as an event, with a second word of zeros after `PERSIST`. -/
def tableEvent (w : Nat) : Code :=
  if (w >>> 56) % 256 = 9 then .event [BitVec.ofNat 64 w, 0] else .event [BitVec.ofNat 64 w]

/-- The code a table word stands for: 64 bits are a command, else an event, else a response; 3 to 6 bytes are a packet, read as
operations traffic first and as a service packet second; 12 and 18 bits (16 and 24 in whole bytes) are a datagram. -/
def tableCode (nbits w : Nat) : Code :=
  let firstOf (cs : List Code) (last : Code) : Code :=
    match cs.find? (fun c => (decode c).isOk) with
    | some c => c
    | none => last
  match nbits with
  | 64 => firstOf [tableCommand w, tableEvent w, .response (BitVec.ofNat 64 w)] (tableCommand w)
  | 12 => .datagram (tableSymbols 2 w)
  | 16 => .datagram (tableSymbols 2 w)
  | 18 => .datagram (tableSymbols 3 w)
  | n =>
    let bs := tableBytes (n / 8) w
    firstOf ([.packet {} bs, .packet { service := true } bs] ++ (if n = 24 then [.datagram (tableSymbols 3 w)] else []))
      (.packet {} bs)

/-- The instruction the decoder reads from a table word of `nbits` bits. -/
def decodeTableWord (nbits w : Nat) : Option Instr :=
  if w < 2 ^ nbits then
    match decode (tableCode nbits w) with
    | .ok i => some i
    | .error _ => none
  else none

end Sys2Proof
end

