-- ==== Sys2Proof/Config.lean ====
section
/-! DEFINITION. The parameters of the block (R6). A value the spec leaves OPEN is a constant without a body, so that no proof can
know it; it is then brought into the range R6, R155, R364, R408, R409, R440, R230 and the OPEN table of spec/92 demand (log 13). A model takes each parameter as an
argument (R6): every operation takes a `Params`, by default `Config.params`. -/

namespace Sys2Proof

/-- `MINP` (R6). -/
def minPriority : Nat := 1

/-- `DCC_MAX_PACKET` in bytes (R6). -/
def dccMaxPacket : Nat := 6

/-- `POM_DEADLINE_US` (R6). -/
def pomDeadlineUs : Nat := 500000

/-- `SVC_ACK_TIMEOUT_US` (R6). -/
def svcAckTimeoutUs : Nat := 2560000

/-- `ACK_WINDOW` in samples (R6). -/
def ackWindow : Nat := 200

/-- `DECUP_WIN_DATA_US` (R6). -/
def decupWinDataUs : Nat := 100000

/-- `DECUP_WIN_SHORT_US` (R6). -/
def decupWinShortUs : Nat := 5000

/-- `DECUP_SECOND_US` (R6). -/
def decupSecondUs : Nat := 200

/-- `DECUP_SETTLE_US` (R6). -/
def decupSettleUs : Nat := 100

/-- The bit-one, bit-zero and ackreq durations of an MDU transfer rate (R440). -/
structure MduTriple where
  bitOne : Nat
  bitZero : Nat
  ackreq : Nat
  deriving DecidableEq, Repr, Inhabited

/-- The OPEN parameters of R6, the oracles the spec gives the block, and the model's own free values. -/
structure Params where
  /-- `PRIORITY_BITS` -/
  priorityBits : Nat
  /-- `FRONT_CAP` -/
  frontCap : Nat
  /-- `BACK_CAP` -/
  backCap : Nat
  /-- `FEEDBACK_CAP` -/
  feedbackCap : Nat
  /-- `CV_DEQUE_CAP` -/
  cvDequeCap : Nat
  /-- `LOCO_MAX` -/
  locoMax : Nat
  /-- `DECUP_IN_CAP` -/
  decupInCap : Nat
  /-- `MDU_IN_CAP` -/
  mduInCap : Nat
  /-- `REPLY_CAP` -/
  replyCap : Nat
  /-- `DECUP_MAX_PACKET` -/
  decupMaxPacket : Nat
  /-- `MDU_MAX_PACKET` -/
  mduMaxPacket : Nat
  /-- `HIGH_FUNCTIONS` -/
  highFunctions : Nat
  /-- `SERVICE_PREAMBLE` -/
  servicePreamble : Nat
  /-- `POM_REPEAT` -/
  pomRepeat : Nat
  /-- `BIT_VERIFY_POL` -/
  bitVerifyPol : Bool
  /-- `T_TCS` -/
  tTcs : Nat
  /-- `T_TS2` -/
  tTs2 : Nat
  /-- `T_TCE` -/
  tTce : Nat
  /-- `OFFSET_ENDBIT` -/
  offsetEndbit : Nat
  /-- `UART_FIFO_SIZE` -/
  uartFifoSize : Nat
  /-- `SESSION_TIMEOUT_DECUP_US` -/
  sessionTimeoutDecup : Nat
  /-- `SESSION_TIMEOUT_MDU_US` -/
  sessionTimeoutMdu : Nat
  /-- `MDU_RATES` -/
  mduRates : Byte → MduTriple
  /-- `MDU_DEFAULT_RATE` -/
  mduDefaultRate : Byte
  /-- `MDU_FALLBACK_RATE` -/
  mduFallbackRate : Byte
  /-- `decup_is_data` (R405) -/
  decupIsData : Mode → List Byte → Bool
  /-- `decup_workaround` (R408) -/
  decupWorkaround : Mode → List Byte → Bool → Nat → Nat
  /-- `decup_id_update` (R409) -/
  decupIdUpdate : Mode → List Byte → Bool → Nat → Bool
  /-- `decup_symbols` (R155) -/
  decupSymbols : List Byte → List Symbol
  /-- `mdu_symbols` (R155) -/
  mduSymbols : List Byte → Byte → Byte → MduTriple → List Symbol
  /-- `mdu_expected_counts` (R440) -/
  mduExpectedCounts : List Byte → Byte → Byte → MduTriple → Nat × Nat
  /-- `mdu_is_ctr` (R441) -/
  mduIsCtr : List Byte → Bool
  /-- `mdu_ctr_rate` (R441) -/
  mduCtrRate : List Byte → Byte
  /-- `BIDI_DECODE` (R150) -/
  bidiDecode : Byte → BidiSymbol
  /-- `nv_get`, one answer for each look-up (R230, log 14) -/
  nvGet : Nat → Addr → Option NvRecord
  /-- the next move where none is on the agenda (log 1) -/
  freeMove : Nat → Move
  /-- the CSR byte of a deque length above 255 (R118, log 16) -/
  wideCount : Nat → Byte
  /-- the 32-bit capture of a time that does not fit 32 bits (R42, R436, log 22) -/
  wideCapture : Nat → BitVec 32

/-- `MAXP` (R6). -/
def Params.maxPriority (P : Params) : Nat :=
  2 ^ P.priorityBits - 1

/-! ### The open values -/

opaque Config.rawPriorityBits : Nat
opaque Config.rawFrontCap : Nat
opaque Config.rawBackCap : Nat
opaque Config.rawFeedbackCap : Nat
opaque Config.rawCvDequeCap : Nat
opaque Config.rawLocoMax : Nat
opaque Config.rawDecupInCap : Nat
opaque Config.rawMduInCap : Nat
opaque Config.rawReplyCap : Nat
opaque Config.rawDecupMaxPacket : Nat
opaque Config.rawMduMaxPacket : Nat
opaque Config.rawHighFunctions : Nat
opaque Config.rawServicePreamble : Nat
opaque Config.rawPomRepeat : Nat
opaque Config.bitVerifyPol : Bool
opaque Config.rawTcs : Nat
opaque Config.rawTs2 : Nat
opaque Config.rawTce : Nat
opaque Config.offsetEndbit : Nat
opaque Config.rawUartFifoSize : Nat
opaque Config.rawSessionTimeoutDecup : Nat
opaque Config.rawSessionTimeoutMdu : Nat
opaque Config.mduRates : Byte → MduTriple
opaque Config.mduDefaultRate : Byte
opaque Config.mduFallbackRate : Byte
opaque Config.decupIsData : Mode → List Byte → Bool

/-- Whether the workaround overrides, and with 2 (true) or 1 (false) (R408 (a)). -/
opaque Config.rawWorkaround : Mode → List Byte → Bool → Nat → Option Bool
opaque Config.rawIdUpdate : Mode → List Byte → Bool → Nat → Bool

/-- The first symbol and the rest: the list is never empty (R155). -/
opaque Config.rawDecupSymbols : List Byte → Symbol × List Symbol
opaque Config.rawMduSymbols : List Byte → Byte → Byte → MduTriple → Symbol × List Symbol

/-- Of a symbol list, the short count and the counts between the two positions (R440, log 35). -/
opaque Config.rawMduCounts : List Symbol → Nat × Nat
opaque Config.mduIsCtr : List Byte → Bool
opaque Config.mduCtrRate : List Byte → Byte

/-- How `BIDI_DECODE` renumbers the 64 data values of the table of R150 (OPEN table of spec/92, log 25). -/
opaque Config.bidiRenumber : Equiv.Perm (BitVec 6)
opaque Config.rawNvGet : Nat → Addr → Option NvRecord
opaque Config.freeMove : Nat → Move
opaque Config.wideCount : Nat → Byte
opaque Config.wideCapture : Nat → BitVec 32

/-- A record the store may return: a legal speed-steps code and `v ≤ N + 1` (R230). -/
def NvRecord.legal (r : NvRecord) : Bool :=
  match stepsCount r.speedSteps with
  | some n => (r.rvvvvvvv.extractLsb' 0 7).toNat ≤ n + 1
  | none => false

/-- The workaround returns the raw count or a protocol-expected 1 or 2, and depends on its arguments alone (R408 (a), (b)). Which
packets it may override (R408 (c)) has no byte formats in the spec: that any packet may be, in both DECUP modes, is the model's
choice (log 34). -/
def Config.workaround (m : Mode) (pkt : List Byte) (known : Bool) (raw : Nat) : Nat :=
  match Config.rawWorkaround m pkt known raw with
  | none => raw
  | some true => 2
  | some false => 1

/-- The id update returns 1 only in `DECUPZsu` (R409). -/
def Config.idUpdate (m : Mode) (pkt : List Byte) (known : Bool) (code : Nat) : Bool :=
  decide (m = .decupZsu) && Config.rawIdUpdate m pkt known code

/-- The symbols of a DECUP packet (R155). -/
def Config.decupSymbols (pkt : List Byte) : List Symbol :=
  (Config.rawDecupSymbols pkt).1 :: (Config.rawDecupSymbols pkt).2

/-- The symbols of an MDU packet (R155). -/
def Config.mduSymbols (pkt : List Byte) (pre ackreq : Byte) (rt : MduTriple) : List Symbol :=
  (Config.rawMduSymbols pkt pre ackreq rt).1 :: (Config.rawMduSymbols pkt pre ackreq rt).2

/-- The two expected counts `s < l`, consistent with `mdu_symbols`: the symbols of the packet determine them (R440, log 35). -/
def Config.mduExpectedCounts (pkt : List Byte) (pre ackreq : Byte) (rt : MduTriple) : Nat × Nat :=
  let raw := Config.rawMduCounts (Config.mduSymbols pkt pre ackreq rt)
  (raw.1, raw.1 + raw.2 + 1)

/-- `BIDI_DECODE`: a bijection from the 64 data bytes of R150 to 0x00..0x3F, with the special bytes of R150 (OPEN table of spec/92,
log 25). -/
def Config.bidiDecode (b : Byte) : BidiSymbol :=
  match bidiDefaultDecode b with
  | .data n => .data (Config.bidiRenumber n)
  | .ack => .ack
  | .nack => .nack
  | .busy => .busy
  | .reserved => .reserved

/-- The byte that carries a data value in `BIDI_DECODE`. -/
def Config.bidiEncode (n : BitVec 6) : Byte :=
  bidiDefaultEncode (Config.bidiRenumber.symm n)

/-- The store's answer, none for a record the store never returns (R230). -/
def Config.nvGet (n : Nat) (a : Addr) : Option NvRecord :=
  match Config.rawNvGet n a with
  | some r => if r.legal then some r else none
  | none => none

/-- The parameters of this block: each OPEN value is any value that its constraint allows. -/
def Config.params : Params where
  priorityBits := Config.rawPriorityBits % 8 + 1
  frontCap := Config.rawFrontCap + 1
  backCap := Config.rawBackCap + 4 * (Config.rawHighFunctions % 4) + 11
  feedbackCap := Config.rawFeedbackCap + 1
  cvDequeCap := Config.rawCvDequeCap + 1
  locoMax := Config.rawLocoMax + 1
  decupInCap := Config.rawDecupInCap + 1
  mduInCap := Config.rawMduInCap + 1
  replyCap := Config.rawReplyCap + 1
  decupMaxPacket := Config.rawDecupMaxPacket % 255 + 1
  mduMaxPacket := Config.rawMduMaxPacket % 255 + 1
  highFunctions := Config.rawHighFunctions % 4
  servicePreamble := Config.rawServicePreamble % 256
  pomRepeat := Config.rawPomRepeat + 1
  bitVerifyPol := Config.bitVerifyPol
  tTcs := Config.rawTcs + 1
  tTs2 := Config.rawTcs + 1 + Config.rawTs2 + 1
  tTce := Config.rawTcs + 1 + Config.rawTs2 + 1 + Config.rawTce + 1
  offsetEndbit := Config.offsetEndbit
  uartFifoSize := Config.rawUartFifoSize + 8
  sessionTimeoutDecup := Config.rawSessionTimeoutDecup + 1
  sessionTimeoutMdu := Config.rawSessionTimeoutMdu + 1
  mduRates := Config.mduRates
  mduDefaultRate := Config.mduDefaultRate
  mduFallbackRate := Config.mduFallbackRate
  decupIsData := Config.decupIsData
  decupWorkaround := Config.workaround
  decupIdUpdate := Config.idUpdate
  decupSymbols := Config.decupSymbols
  mduSymbols := Config.mduSymbols
  mduExpectedCounts := Config.mduExpectedCounts
  mduIsCtr := Config.mduIsCtr
  mduCtrRate := Config.mduCtrRate
  bidiDecode := Config.bidiDecode
  nvGet := Config.nvGet
  freeMove := Config.freeMove
  wideCount := Config.wideCount
  wideCapture := Config.wideCapture

/-- The constraints on a parameter set: a set that violates them is refused (R6, R155, R230, R364, R408, R409,
R440, R506, and the OPEN table of spec/92). -/
structure Params.Legal (P : Params) : Prop where
  priorityBits : 1 ≤ P.priorityBits ∧ P.priorityBits ≤ 8
  frontCap : 1 ≤ P.frontCap
  backCap : 4 ≤ P.backCap ∧ (P.backCap + 3) / 4 + 4 + P.highFunctions ≤ (P.backCap + 1) / 2 + 1
  feedbackCap : 1 ≤ P.feedbackCap
  cvDequeCap : 1 ≤ P.cvDequeCap
  locoMax : 1 ≤ P.locoMax
  decupInCap : 1 ≤ P.decupInCap
  mduInCap : 1 ≤ P.mduInCap
  replyCap : 1 ≤ P.replyCap
  decupMaxPacket : 1 ≤ P.decupMaxPacket ∧ P.decupMaxPacket ≤ 255
  mduMaxPacket : 1 ≤ P.mduMaxPacket ∧ P.mduMaxPacket ≤ 255
  highFunctions : P.highFunctions ≤ 3
  servicePreamble : P.servicePreamble ≤ 255
  pomRepeat : 1 ≤ P.pomRepeat
  cutout : 0 < P.tTcs ∧ P.tTcs < P.tTs2 ∧ P.tTs2 < P.tTce
  uartFifoSize : 8 ≤ P.uartFifoSize
  sessionTimeoutDecup : 1 ≤ P.sessionTimeoutDecup
  sessionTimeoutMdu : 1 ≤ P.sessionTimeoutMdu
  workaround : ∀ m pkt k raw,
    P.decupWorkaround m pkt k raw = raw ∨ P.decupWorkaround m pkt k raw = 1 ∨ P.decupWorkaround m pkt k raw = 2
  idUpdate : ∀ m pkt k code, P.decupIdUpdate m pkt k code = true → m = .decupZsu
  decupSymbols : ∀ pkt, pkt ≠ [] → P.decupSymbols pkt ≠ []
  mduSymbols : ∀ pkt a b rt, pkt ≠ [] → P.mduSymbols pkt a b rt ≠ []
  expectedCounts : ∀ pkt a b rt, (P.mduExpectedCounts pkt a b rt).1 < (P.mduExpectedCounts pkt a b rt).2
  countsOfSymbols : ∀ pkt a b rt pkt' a' b' rt', P.mduSymbols pkt a b rt = P.mduSymbols pkt' a' b' rt' →
    P.mduExpectedCounts pkt a b rt = P.mduExpectedCounts pkt' a' b' rt'
  bidiData : ∀ n, ∃ b ∈ bidiDataBytes, P.bidiDecode b = .data n ∧ ∀ c, P.bidiDecode c = .data n → c = b
  bidiSpecial : ∀ b, b ∉ bidiDataBytes → P.bidiDecode b = bidiDefaultDecode b
  nvGet : ∀ n a r, P.nvGet n a = some r → r.legal = true

/-- Both ACK positions of a packet lie inside its symbols, as R436 says of the packets of the source. No constraint on a parameter set:
set A of spec/95 has packets of 1 and 2 bytes where they do not (log 35). -/
def Params.CountsInPacket (P : Params) (pkt : List Byte) (pre ackreq : Byte) (rt : MduTriple) : Prop :=
  (P.mduExpectedCounts pkt pre ackreq rt).2 < symbolsDur (P.mduSymbols pkt pre ackreq rt)

end Sys2Proof
end

