-- ==== Sys2Proof/Machine/State.lean ====
section
/-! DEFINITION. The state of the block (R20 to R48, R600), the reasons a step can stop, and the state after reset. -/

namespace Sys2Proof.Machine

/-! ### Phases (R21) -/

/-- `HOST.phase`. -/
inductive HostPhase where
  | hIdle | hExec | hPush
  deriving DecidableEq, Repr

/-- `SCHED.phase`. -/
inductive SchedPhase where
  | idle
  | opsStart | opsIdleFill | opsLoco | opsPassEnd | opsSvc | opsPom | opsBidi
  | swToSvc | swWaitSvc
  | svcEntry | svcStartReset | svcNext | svcRun
  | attProg | attReset | attWait
  | swToOps | swWaitOps
  deriving DecidableEq, Repr

/-- `DCCDRV.phase`. -/
inductive DccPhase where
  | dIdle | dInit | dCheck | dSelect | dTx | dCutoutWait | dCapture | dTeardown
  deriving DecidableEq, Repr

/-- `CUTOUT.phase`. -/
inductive CutoutPhase where
  | cOff | cWaitTcs | cWaitTs2 | cWaitTce
  deriving DecidableEq, Repr

/-- `SVCACK.phase`. -/
inductive SvcAckPhase where
  | aOff | aIdle | aArmed
  deriving DecidableEq, Repr

/-- `DECUPDRV.phase`. -/
inductive DecupPhase where
  | uIdle | uInit | uCheck | uWaitPkt | uTx | uWin1 | uWin2 | uSettle | uTeardown
  deriving DecidableEq, Repr

/-- `MDUDRV.phase`. -/
inductive MduPhase where
  | mIdle | mInit | mCheck | mWaitPkt | mTx | mEval | mTeardown
  deriving DecidableEq, Repr

/-- The phase in which a fault was raised: the `step` of `FATAL` (R44, R504 (a)). -/
inductive PhaseName where
  | sched (p : SchedPhase)
  | dccdrv (p : DccPhase)
  | decupdrv (p : DecupPhase)
  | mdudrv (p : MduPhase)
  | svcack (p : SvcAckPhase)
  deriving DecidableEq, Repr

/-! ### Settings (R26, R118) -/

/-- The 14 settings. -/
inductive Setting where
  | bit1Duration | bit0Duration | preamble | bidiBitDuration
  | programmingType | programPacketCount | startupResetPacketCount | continueResetPacketCount | programmingAckCurrent
  | mduPreamble | mduAckreq
  | currentLimit | currentLimitService | currentShortCircuitTime
  deriving DecidableEq, Repr

/-- A value for each setting, `none` where it holds *no value*: the form of `CFG` and of `ACT` (R26, R27). -/
structure Settings where
  bit1Duration : Option Byte := none
  bit0Duration : Option Byte := none
  preamble : Option Byte := none
  bidiBitDuration : Option Byte := none
  programmingType : Option Byte := none
  programPacketCount : Option Byte := none
  startupResetPacketCount : Option Byte := none
  continueResetPacketCount : Option Byte := none
  programmingAckCurrent : Option Byte := none
  mduPreamble : Option Byte := none
  mduAckreq : Option Byte := none
  currentLimit : Option Byte := none
  currentLimitService : Option Byte := none
  currentShortCircuitTime : Option Byte := none
  deriving DecidableEq, Repr

/-! ### Records and queue entries -/

/-- A loco record (R24); its address is its key in `LOCOS`. -/
structure Loco where
  name : String
  mode : Byte
  speedSteps : BitVec 3
  rvvvvvvv : Byte
  f31_0 : BitVec 32
  priority : Nat
  rcSpeed : BitVec 16
  rcQos : Byte
  rcOptions : Byte
  deriving DecidableEq, Repr

/-- An entry of `FRONTQ` or `BACKQ`, with its tags `FIRST` and `END` (R30, R129). -/
structure Packet where
  bytes : List Byte
  first : Bool := false
  last : Bool := false
  deriving DecidableEq, Repr

/-- An entry of `FEEDBACKQ` (R31). -/
structure Feedback where
  pkt : List Byte
  dg : List Byte
  n1 : Nat
  n2 : Nat
  deriving DecidableEq, Repr

/-- What a CV request does (R32, R33). -/
inductive CvOp where
  | read | write
  deriving DecidableEq, Repr

/-- An entry of `CVSVC` (R32); `data` has a meaning for a write only (log 33). -/
structure SvcReq where
  op : CvOp
  cvi : Cvi
  data : Byte
  deriving DecidableEq, Repr

/-- An entry of `CVPOM` (R33). -/
structure PomReq where
  op : CvOp
  addr : Addr
  cvi : Cvi
  data : Byte
  deadline : Nat
  sent : Bool
  deriving DecidableEq, Repr

/-- A command taken from the port: its word and its payload bytes (R43). -/
structure Command where
  word : Word
  payload : List Byte
  deriving DecidableEq, Repr

/-- The queue a command pushes to (R231). -/
inductive Target where
  | frontq | backq | decupInq | mduInq
  deriving DecidableEq, Repr

/-- `HOST.pend`: a packet that waits for queue space, and `STATE` at its admission (R231). -/
structure Pending where
  target : Target
  bytes : List Byte
  adm : BitVec 16
  deriving DecidableEq, Repr

/-- The service algorithm (R267, R270). -/
inductive SvcAlg where
  | byte | bit | confirm | write
  deriving DecidableEq, Repr

/-- The ISR-to-task notification (R39, R126). -/
structure Notify where
  pending : Bool
  val : BitVec 2
  deriving DecidableEq, Repr

/-! ### The registers of the agents -/

/-- HOST (R43). -/
structure HostRegs where
  phase : HostPhase
  cmd : Option Command
  pend : Option Pending
  deriving DecidableEq, Repr

/-- SCHED (R37). -/
structure SchedRegs where
  phase : SchedPhase
  it : Option Addr
  k : Nat
  r : Nat
  selfSuspend : Bool
  req : Option SvcReq
  alg : Option SvcAlg
  v : Nat
  i : Nat
  acks : Byte
  b : Byte
  attPkt : Option (List Byte)
  waitDeadline : Nat
  attAck : Bool
  deriving DecidableEq, Repr

/-- DCCDRV (R38). -/
structure DccRegs where
  phase : DccPhase
  mode : Option Mode
  cur : Option Packet
  txEnd : Nat
  bidiOn : Bool
  resume : Bool
  deriving DecidableEq, Repr

/-- CUTOUT (R39). -/
structure CutoutRegs where
  phase : CutoutPhase
  t0 : Nat
  ts2Len : Nat
  ch1 : Bool
  deriving DecidableEq, Repr

/-- SVCACK (R40). -/
structure SvcAckRegs where
  phase : SvcAckPhase
  win : List (BitVec 16)
  sum : Nat
  zeros : Nat
  ref : Option Nat
  ackSeen : Bool
  deriving DecidableEq, Repr

/-- DECUPDRV (R41). -/
structure DecupRegs where
  phase : DecupPhase
  mode : Option Mode
  cur : Option (List Byte)
  txEnd : Nat
  winDeadline : Nat
  t2 : Nat
  settleEnd : Nat
  idleDeadline : Nat
  edges : Nat
  raw : Nat
  idKnown : Bool
  resume : Bool
  exitTimeout : Bool
  deriving DecidableEq, Repr

/-- MDUDRV (R42). -/
structure MduRegs where
  phase : MduPhase
  mode : Option Mode
  cur : Option (List Byte)
  txEnd : Nat
  timerBase : Nat
  idleDeadline : Nat
  capture : Option (BitVec 32)
  rate : Byte
  resume : Bool
  exitTimeout : Bool
  deriving DecidableEq, Repr

/-- The command port of an issuer and the responses it got, oldest first (R113, R116, R200). -/
structure Port where
  cmds : List Word
  resp : List Word
  deriving DecidableEq, Repr

/-! ### Faults -/

/-- The classes of a fault (R503); `fatalClassCode` of Machine/Ops.lean gives each its code. -/
inductive FaultClass where
  /-- class 1: a peripheral init or deinit failed -/
  | hwFail
  /-- class 2: a setting or register with *no value* was needed -/
  | uninitSetting
  /-- class 3: `STATE` holds a value that R211 excludes -/
  | arbInvariant
  deriving DecidableEq, Repr

/-- The `FATAL` record (R44). -/
structure FatalRecord where
  cls : FaultClass
  agent : Agent
  step : PhaseName
  deriving DecidableEq, Repr

/-- Why the machine stops with a fault. -/
inductive Fault where
  /-- Raised by `step` in a state whose `FATAL` is set: no agent has a step there (R504 (b)). Safe: the spec stops there too. -/
  | fatal (record : FatalRecord)
  deriving DecidableEq, Repr

/-- Why the model has no answer. -/
inductive Refusal where
  /-- An instruction without a meaning in this model; no arm of `exec` is left that raises it. Safe. -/
  | notModelled (mnemonic : String)
  /-- Raised by TIME at `2^64 - 1` µs: the spec says that the counter does not wrap within any run (R46). Safe. -/
  | timeBaseExhausted
  deriving DecidableEq, Repr

/-! ### The state -/

/-- All state of the block, and after `agenda` the model's own fields. -/
structure State where
  /-- `STATE` (R22) -/
  arbState : BitVec 16
  /-- `LOCOS`, keys strictly rising (R23) -/
  locos : List (Addr × Loco)
  /-- `PRIORITY_COUNT` (R25) -/
  priorityCount : Nat
  /-- `CFG` (R26) -/
  cfg : Settings
  /-- `ACT` (R27) -/
  act : Settings
  /-- `CUR_LIM` (R29) -/
  curLim : BitVec 2
  /-- `BIDI_EN` (R39) -/
  bidiEn : Bool
  /-- `NOTIFY` (R39) -/
  notify : Notify
  /-- `FRONTQ` (R30) -/
  frontq : List Packet
  /-- `BACKQ` (R30) -/
  backq : List Packet
  /-- `FEEDBACKQ` (R31) -/
  feedbackq : List Feedback
  /-- `CVSVC` (R32) -/
  cvsvc : List SvcReq
  /-- `CVPOM` (R33) -/
  cvpom : List PomReq
  /-- `ACKBUF` (R34) -/
  ackbuf : Option Bool
  /-- `DECUP_INQ` (R35) -/
  decupInq : List (List Byte)
  /-- `MDU_INQ` (R35) -/
  mduInq : List (List Byte)
  /-- `DECUP_REPLY` (R35) -/
  decupReply : List Byte
  /-- `MDU_REPLY` (R35) -/
  mduReply : List Byte
  /-- `UART.fifo` (R36) -/
  uartFifo : List Byte
  /-- HOST (R43) -/
  host : HostRegs
  /-- SCHED (R37) -/
  sched : SchedRegs
  /-- DCCDRV (R38) -/
  dcc : DccRegs
  /-- CUTOUT (R39) -/
  cutout : CutoutRegs
  /-- SVCACK (R40) -/
  svcack : SvcAckRegs
  /-- DECUPDRV (R41) -/
  decup : DecupRegs
  /-- MDUDRV (R42) -/
  mdu : MduRegs
  /-- `FATAL` (R44) -/
  fatal : Option FatalRecord
  /-- `EVENTS` (R45) -/
  events : List Word
  /-- `TRACK` (R45) -/
  track : List (Mode × Symbol)
  /-- `now` (R46) -/
  now : Nat
  /-- the command port of HOST (R113) -/
  hostPort : Port
  /-- the command port of ANALOG (R200) -/
  analogPort : Port
  /-- the command port of EXT (R200) -/
  extPort : Port
  /-- model: the moves to take next (log 1) -/
  agenda : List Move
  /-- model: how many free moves were taken (log 1) -/
  freeMoves : Nat
  /-- model: how many `nv_get` look-ups were made (log 14) -/
  lookups : Nat
  /-- model: a class 4 urgent step was taken at this instant (R511, log 12) -/
  polled : Bool
  /-- model: whose command is being executed (R200, log 3) -/
  issuer : Issuer
  /-- model: the packet whose feedback is being decoded, `f.pkt` (R385, log 29) -/
  rxPkt : List Byte
  /-- model: an output word placed for delivery (log 6) -/
  outLatch : Option Code
  deriving DecidableEq, Repr

/-- SCHED's registers after reset and after an abandon (R37, R290). -/
def SchedRegs.reset : SchedRegs where
  phase := .idle
  it := none
  k := 0
  r := 0
  selfSuspend := false
  req := none
  alg := none
  v := 0
  i := 0
  acks := 0
  b := 0
  attPkt := none
  waitDeadline := 0
  attAck := false

/-- The state right after power-on (R600); from `agenda` on, the model's own choice (log 32). -/
def State.reset : State where
  arbState := 0x0001#16
  locos := []
  priorityCount := minPriority
  cfg := {}
  act := {}
  curLim := 0
  bidiEn := true
  notify := { pending := false, val := 0 }
  frontq := []
  backq := []
  feedbackq := []
  cvsvc := []
  cvpom := []
  ackbuf := none
  decupInq := []
  mduInq := []
  decupReply := []
  mduReply := []
  uartFifo := []
  host := { phase := .hIdle, cmd := none, pend := none }
  sched := SchedRegs.reset
  dcc := { phase := .dIdle, mode := none, cur := none, txEnd := 0, bidiOn := false, resume := false }
  cutout := { phase := .cOff, t0 := 0, ts2Len := 0, ch1 := false }
  svcack := { phase := .aOff, win := [], sum := 0, zeros := 0, ref := none, ackSeen := false }
  decup :=
    { phase := .uIdle, mode := none, cur := none, txEnd := 0, winDeadline := 0, t2 := 0, settleEnd := 0, idleDeadline := 0,
      edges := 0, raw := 0, idKnown := false, resume := false, exitTimeout := false }
  mdu :=
    { phase := .mIdle, mode := none, cur := none, txEnd := 0, timerBase := 0, idleDeadline := 0, capture := none,
      rate := Config.params.mduDefaultRate, resume := false, exitTimeout := false }
  fatal := none
  events := []
  track := []
  now := 0
  hostPort := { cmds := [], resp := [] }
  analogPort := { cmds := [], resp := [] }
  extPort := { cmds := [], resp := [] }
  agenda := []
  freeMoves := 0
  lookups := 0
  polled := false
  issuer := .host
  rxPkt := []
  outLatch := none

end Sys2Proof.Machine
end

