-- ==== Sys2Proof/Machine/Ops.lean ====
section
/-! DEFINITION. The named operations over the state: `STATE` values (R110), settings, the loco table (R23, R230), queues (R10, R231),
ports and events (R116, R117), faults (R504), mode exit (R208, R513) and mode entry (R212, R514). -/

namespace Sys2Proof.Machine

/-- What a step or an instruction answers. -/
abbrev Res := Host.Outcome State Fault Refusal

/-- What an agent's step asks for: instructions to run in order from a state (none: that state is the next one), or a refusal. -/
inductive Advance where
  | run (instrs : List Instr) (s : State)
  | refused (r : Refusal)
  deriving Repr

/-! ### `STATE` (R110, R111) -/

/-- `Suspended`. -/
def stSuspended : BitVec 16 := 0x0001#16

/-- `Suspend`. -/
def stSuspend : BitVec 16 := 0x0002#16

/-- `ShortCircuit`. -/
def stShort : BitVec 16 := 0x0004#16

/-- The `STATE` value of a mode, `m << 8`. -/
def modeValue (m : Mode) : BitVec 16 :=
  (m.id ++ 0#8).cast (by decide)

/-- The mode whose value `STATE` holds. -/
def modeOfState (v : BitVec 16) : Option Mode :=
  if v.extractLsb' 0 8 = 0 then Mode.ofId (v.extractLsb' 8 8) else none

/-- The 15 legal values of `STATE` (R110). -/
def stateLegal (v : BitVec 16) : Bool :=
  v == stSuspended || v == stSuspend || v == stShort || (modeOfState v).isSome

/-- The agents that own modes (R111). -/
inductive Driver where
  | dcc | decup | mdu | ext
  deriving DecidableEq, Repr

/-- The owner of a mode (R111). -/
def driverOf : Mode → Driver
  | .dccOperations | .dccService => .dcc
  | .decupZpp | .decupZsu => .decup
  | .mduZpp | .mduZsu => .mdu
  | .zusi | .ulfDccEin | .ulfDecupEin | .ulfMduEin | .ulfSusiv2 | .ota => .ext

/-- "DCC mode" (R233). -/
def inDccMode (s : State) : Bool :=
  s.arbState == modeValue .dccOperations || s.arbState == modeValue .dccService

/-- `CAS(STATE, old, new)`: the state it leaves, none where it fails (R10, R92, R200). -/
def cas (old new : BitVec 16) (s : State) : Option State :=
  if s.arbState = old then some { s with arbState := new } else none

/-! ### Settings (R26, R27, R118) -/

/-- The value of a setting, none for *no value*. -/
def getSetting (c : Settings) : Setting → Option Byte
  | .bit1Duration => c.bit1Duration
  | .bit0Duration => c.bit0Duration
  | .preamble => c.preamble
  | .bidiBitDuration => c.bidiBitDuration
  | .programmingType => c.programmingType
  | .programPacketCount => c.programPacketCount
  | .startupResetPacketCount => c.startupResetPacketCount
  | .continueResetPacketCount => c.continueResetPacketCount
  | .programmingAckCurrent => c.programmingAckCurrent
  | .mduPreamble => c.mduPreamble
  | .mduAckreq => c.mduAckreq
  | .currentLimit => c.currentLimit
  | .currentLimitService => c.currentLimitService
  | .currentShortCircuitTime => c.currentShortCircuitTime

/-- Write a setting. -/
def setSetting (c : Settings) (d : Byte) : Setting → Settings
  | .bit1Duration => { c with bit1Duration := some d }
  | .bit0Duration => { c with bit0Duration := some d }
  | .preamble => { c with preamble := some d }
  | .bidiBitDuration => { c with bidiBitDuration := some d }
  | .programmingType => { c with programmingType := some d }
  | .programPacketCount => { c with programPacketCount := some d }
  | .startupResetPacketCount => { c with startupResetPacketCount := some d }
  | .continueResetPacketCount => { c with continueResetPacketCount := some d }
  | .programmingAckCurrent => { c with programmingAckCurrent := some d }
  | .mduPreamble => { c with mduPreamble := some d }
  | .mduAckreq => { c with mduAckreq := some d }
  | .currentLimit => { c with currentLimit := some d }
  | .currentLimitService => { c with currentLimitService := some d }
  | .currentShortCircuitTime => { c with currentShortCircuitTime := some d }

/-- The RW register of a CSR index (R118). -/
def settingOfIndex (i : BitVec 8) : Option Setting :=
  match i.toNat with
  | 0x01 => some .bit1Duration
  | 0x02 => some .bit0Duration
  | 0x03 => some .preamble
  | 0x04 => some .bidiBitDuration
  | 0x05 => some .programmingType
  | 0x06 => some .programPacketCount
  | 0x07 => some .startupResetPacketCount
  | 0x08 => some .continueResetPacketCount
  | 0x09 => some .programmingAckCurrent
  | 0x0A => some .mduPreamble
  | 0x0B => some .mduAckreq
  | 0x0C => some .currentLimit
  | 0x0D => some .currentLimitService
  | 0x0E => some .currentShortCircuitTime
  | _ => none

/-- The legal written values of a setting (R118, R124). -/
def settingLegal (d : Byte) : Setting → Bool
  | .bit1Duration | .bit0Duration | .programPacketCount => 1 ≤ d.toNat
  | .programmingType => 1 ≤ d.toNat && d.toNat ≤ 3
  | .currentLimit | .currentLimitService => d.toNat ≤ 3
  | .preamble | .bidiBitDuration | .startupResetPacketCount | .continueResetPacketCount | .programmingAckCurrent
  | .mduPreamble | .mduAckreq | .currentShortCircuitTime => true

/-- A setting that must have a value, as a number. -/
def settingNat (c : Settings) (x : Setting) : Option Nat :=
  (getSetting c x).map BitVec.toNat

/-- Whether every setting of a list has a value (R351 (a), R606). -/
def settingsPresent (c : Settings) (xs : List Setting) : Bool :=
  xs.all fun x => (getSetting c x).isSome

/-- The settings a mode needs (R606). -/
def settingsNeeded (m : Mode) : List Setting :=
  match driverOf m with
  | .dcc =>
    if m = .dccService then
      [.bit1Duration, .bit0Duration, .programmingType, .programPacketCount, .startupResetPacketCount,
        .continueResetPacketCount, .programmingAckCurrent, .currentLimitService]
    else [.bit1Duration, .bit0Duration, .preamble, .bidiBitDuration, .currentLimit]
  | .decup => [.currentLimit]
  | .mdu => [.mduPreamble, .mduAckreq, .currentLimit]
  | .ext => []

/-- The current-limit code a mode entry selects (R531). -/
def limitSetting (m : Mode) : Setting :=
  if m = .dccService then .currentLimitService else .currentLimit

/-! ### The loco table (R23, R24) -/

/-- The canonical form of the table: keys strictly rising. -/
abbrev locosWf (t : List (Addr × Loco)) : Prop :=
  t.Pairwise fun x y => x.1.toNat < y.1.toNat

/-- `LOCOS[a]`. -/
def locoGet (a : Addr) : List (Addr × Loco) → Option Loco
  | [] => none
  | (b, r) :: t => if a = b then some r else locoGet a t

/-- `LOCOS[a] <- L`, in key order. -/
def locoPut (a : Addr) (l : Loco) : List (Addr × Loco) → List (Addr × Loco)
  | [] => [(a, l)]
  | (b, r) :: t =>
    if a = b then (a, l) :: t
    else if a.toNat < b.toNat then (a, l) :: (b, r) :: t
    else (b, r) :: locoPut a l t

/-- Remove `LOCOS[a]`. -/
def locoErase (a : Addr) (t : List (Addr × Loco)) : List (Addr × Loco) :=
  t.filter fun e => e.1 ≠ a

/-- The least address of the table (R255). -/
def locoFirst (t : List (Addr × Loco)) : Option Addr :=
  t.head?.map Prod.fst

/-- The least address greater than `a` (R258). -/
def locoAfter (a : Addr) (t : List (Addr × Loco)) : Option Addr :=
  (t.find? fun e => a.toNat < e.1.toNat).map Prod.fst

/-- A record with the persisted fields of the store (R24, R230). -/
def locoOfNv (r : NvRecord) : Loco where
  name := r.name
  mode := r.mode
  speedSteps := r.speedSteps
  rvvvvvvv := r.rvvvvvvv
  f31_0 := r.f31_0
  priority := minPriority
  rcSpeed := 0
  rcQos := 0
  rcOptions := 0

/-- A record with the defaults of R24. -/
def locoDefault : Loco where
  name := ""
  mode := 0
  speedSteps := 4
  rvvvvvvv := 0x80
  f31_0 := 0
  priority := minPriority
  rcSpeed := 0
  rcQos := 0
  rcOptions := 0

/-- The record a creation makes from the store's answer (R230). -/
def locoCreated (answer : Option NvRecord) : Loco :=
  match answer with
  | some r => locoOfNv r
  | none => locoDefault

/-- `get_or_create(a)`: the record, and the state after a creation; none where the table is full (R230). -/
def getOrCreate (P : Params) (a : Addr) (s : State) : Option (Loco × State) :=
  match locoGet a s.locos with
  | some l => some (l, s)
  | none =>
    if s.locos.length < P.locoMax then
      some (locoCreated (P.nvGet s.lookups a),
        { s with locos := locoPut a (locoCreated (P.nvGet s.lookups a)) s.locos, lookups := s.lookups + 1 })
    else none

/-- Write a loco record. -/
def setLoco (a : Addr) (l : Loco) (s : State) : State :=
  { s with locos := locoPut a l s.locos }

/-! ### Events and responses (R116, R117) -/

/-- Append the words of an event. -/
def putEvent (ev : Byte) (addr : Addr) (cvi : Cvi) (data : Byte) (ext : Option (BitVec 56)) (s : State) : State :=
  { s with events := s.events ++ eventWords ev addr cvi data ext }

/-- `emit CV_ACK`. -/
def emitCvAck (a : Addr) (k : Cvi) (x : Byte) (s : State) : State := putEvent 0x01 a k x none s

/-- `emit CV_NACK`. -/
def emitCvNack (a : Addr) (k : Cvi) (s : State) : State := putEvent 0x02 a k 0 none s

/-- `emit CV_NACK_SC`. -/
def emitCvNackSc (a : Addr) (k : Cvi) (s : State) : State := putEvent 0x03 a k 0 none s

/-- `emit LOCO_INFO_EV`. -/
def emitLocoInfo (a : Addr) (s : State) : State := putEvent 0x04 a 0 0 none s

/-- `emit RAILCOM_DATA`. -/
def emitRailcom (a : Addr) (s : State) : State := putEvent 0x05 a 0 0 none s

/-- `emit TRACK_POWER_OFF`. -/
def emitPowerOff (s : State) : State := putEvent 0x06 0 0 0 none s

/-- `emit DECUP_ACK`. -/
def emitDecupAck (code : Byte) (s : State) : State := putEvent 0x07 0 0 code none s

/-- `emit MDU_ACK`. -/
def emitMduAck (code : Byte) (s : State) : State := putEvent 0x08 0 0 code none s

/-- The layout of R120: `LOCO_INFO`'s value and `PERSIST`'s second word. -/
def locoInfoValue (l : Loco) : BitVec 56 :=
  (l.rvvvvvvv ++ l.speedSteps ++ l.f31_0 ++ BitVec.ofNat 8 l.priority ++ 0#5).cast (by decide)

/-- The layout of R121: `LOCO_RAILCOM`'s value. -/
def locoRailcomValue (l : Loco) : BitVec 56 :=
  (l.rcSpeed ++ l.rcQos ++ l.rcOptions ++ 0#24).cast (by decide)

/-- `emit PERSIST`. -/
def emitPersist (a : Addr) (l : Loco) (s : State) : State := putEvent 0x09 a 0 0 (some (locoInfoValue l)) s

/-- `emit ERASE`. -/
def emitErase (a : Addr) (s : State) : State := putEvent 0x0A a 0 0 none s

/-- `emit ERASE_ALL`. -/
def emitEraseAll (s : State) : State := putEvent 0x0B 0 0 0 none s

/-- The status codes of R116. -/
def statusOk : Byte := 0x00

/-- `CAS_LOST`. -/
def statusCasLost : Byte := 0x01

/-- `FULL`. -/
def statusFull : Byte := 0x02

/-- `ILLEGAL`. -/
def statusIllegal : Byte := 0x03

/-- `BAD_OPERAND`. -/
def statusBadOperand : Byte := 0x04

/-- `NOT_OWNER`. -/
def statusNotOwner : Byte := 0x05

/-- `NO_LOCO`. -/
def statusNoLoco : Byte := 0x06

/-- `UNINIT`. -/
def statusUninit : Byte := 0x07

/-- Append a word to the responses of a port. -/
def portAnswer (w : Word) (p : Port) : Port :=
  { p with resp := p.resp ++ [w] }

/-- Send a response word to the issuer (R116, R200). -/
def putResponse (status : Byte) (value : BitVec 56) (s : State) : State :=
  match s.issuer with
  | .host => { s with hostPort := portAnswer (responseWord status value) s.hostPort }
  | .analog => { s with analogPort := portAnswer (responseWord status value) s.analogPort }
  | .ext => { s with extPort := portAnswer (responseWord status value) s.extPort }

/-- The command words behind the first command of a port (R115). -/
def dropCommand : List Word → List Word
  | [] => []
  | w :: rest => rest.drop (payloadCount w)

/-- The issuer's command is over: HOST returns to `H_IDLE` (R231), ANALOG and EXT leave the command behind (R200). -/
def complete (s : State) : State :=
  match s.issuer with
  | .host => { s with host := { phase := .hIdle, cmd := none, pend := none } }
  | .analog => { s with analogPort := { s.analogPort with cmds := dropCommand s.analogPort.cmds } }
  | .ext => { s with extPort := { s.extPort with cmds := dropCommand s.extPort.cmds } }

/-- Send the response word of a command and end it. -/
def respond (status : Byte) (value : BitVec 56) (s : State) : State :=
  complete (putResponse status value s)

/-- Answer a status with `VALUE` 0 (R116, R500). -/
def answer (status : Byte) (s : State) : Res :=
  .next (respond status 0 s)

/-- Answer a status with `VALUE[15:0]` = `STATE` (R116, R200). -/
def answerState (status : Byte) (s : State) : Res :=
  .next (respond status (s.arbState.setWidth 56) s)

/-- An opcode above 0x05 from ANALOG or EXT answers `ILLEGAL` (R231, R526). -/
def hostOnly (s : State) (k : Res) : Res :=
  if s.issuer = .host then k else answer statusIllegal s

/-- Leave a packet to push: `pend <- {q, pkt, STATE}`, `phase <- H_PUSH` (R231). -/
def leavePacket (t : Target) (bytes : List Byte) (s : State) : State :=
  { s with host := { s.host with phase := .hPush, pend := some { target := t, bytes := bytes, adm := s.arbState } } }

/-! ### Queues (R10, R30 to R36) -/

/-- `free(Q)` of a command's target queue. -/
def targetFree (P : Params) (s : State) : Target → Nat
  | .frontq => P.frontCap - s.frontq.length
  | .backq => P.backCap - s.backq.length
  | .decupInq => P.decupInCap - s.decupInq.length
  | .mduInq => P.mduInCap - s.mduInq.length

/-- `push` to a command's target queue; packets from commands carry no tag (R129, R247). -/
def targetPush (t : Target) (bytes : List Byte) (s : State) : State :=
  match t with
  | .frontq => { s with frontq := s.frontq ++ [{ bytes := bytes }] }
  | .backq => { s with backq := s.backq ++ [{ bytes := bytes }] }
  | .decupInq => { s with decupInq := s.decupInq ++ [bytes] }
  | .mduInq => { s with mduInq := s.mduInq ++ [bytes] }

/-- `free(FRONTQ)`. -/
def frontFree (P : Params) (s : State) : Nat :=
  P.frontCap - s.frontq.length

/-- `free(BACKQ)`. -/
def backFree (P : Params) (s : State) : Nat :=
  P.backCap - s.backq.length

/-- `push(FRONTQ, e)`. -/
def pushFront (e : Packet) (s : State) : State :=
  { s with frontq := s.frontq ++ [e] }

/-- `push(BACKQ, e)`. -/
def pushBack (e : Packet) (s : State) : State :=
  { s with backq := s.backq ++ [e] }

/-- What DCCDRV's teardown and its idle-step cancel clear (R213, R358). -/
def clearDccQueues (s : State) : State :=
  { s with frontq := [], backq := [], feedbackq := [], ackbuf := none }

/-- What DECUPDRV's teardown and its idle-step cancel clear (R213, R410). -/
def clearDecupQueues (s : State) : State :=
  { s with decupInq := [], decupReply := [] }

/-- What MDUDRV's teardown and its idle-step cancel clear (R213, R438). -/
def clearMduQueues (s : State) : State :=
  { s with mduInq := [], mduReply := [] }

/-! ### The track (R145) -/

/-- `TRACK <- TRACK ++ [(m, x) for x in syms]`. -/
def emitTrack (m : Mode) (xs : List Symbol) (s : State) : State :=
  { s with track := s.track ++ xs.map fun x => (m, x) }

/-! ### Faults, mode exit and mode entry (R504, R208, R212, R213) -/

/-- The `FATAL.class` code of a fault class (R503). -/
def fatalClassCode : FaultClass → Nat
  | .hwFail => 1
  | .uninitSetting => 2
  | .arbInvariant => 3

/-- The code that `FATAL.class` holds, none while `FATAL` is not set (R44, R503). -/
def fatalCode (s : State) : Option Nat :=
  s.fatal.map fun r => fatalClassCode r.cls

/-- `fault F`: `FATAL` is set and nothing else changes (R504 (a)). -/
def raiseFault (cls : FaultClass) (agent : Agent) (step : PhaseName) (s : State) : State :=
  { s with fatal := some { cls := cls, agent := agent, step := step } }

/-- The value a terminal write leaves in `STATE`, none where R211 excludes what it holds (R208). -/
def terminalValue (own : Option Mode) (v : BitVec 16) : Option (BitVec 16) :=
  if v = stSuspend ∨ (own.map modeValue) = some v then some stSuspended
  else if v = stShort then some stShort
  else none

/-- Mode entry: `STATE` takes the mode's value and its driver is resumed (R201 (d), R205 (c), R209, R212). -/
def enterMode (m : Mode) (s : State) : State :=
  match driverOf m with
  | .dcc => { s with arbState := modeValue m, dcc := { s.dcc with resume := true } }
  | .decup => { s with arbState := modeValue m, decup := { s.decup with resume := true } }
  | .mdu => { s with arbState := modeValue m, mdu := { s.mdu with resume := true } }
  | .ext => { s with arbState := modeValue m }

/-- Whether the driver of a mode is idle with `resume = 0` (R201 (b)). -/
def driverQuiet (s : State) : Driver → Bool
  | .dcc => s.dcc.phase = .dIdle && !s.dcc.resume
  | .decup => s.decup.phase = .uIdle && !s.decup.resume
  | .mdu => s.mdu.phase = .mIdle && !s.mdu.resume
  | .ext => true

/-- All three drivers are idle with `resume = 0` (R205 (a), R207). -/
def allQuiet (s : State) : Bool :=
  driverQuiet s .dcc && driverQuiet s .decup && driverQuiet s .mdu

/-- `SCHED.phase ∈ {IDLE, SW_WAIT_SVC, SW_WAIT_OPS}` (R201 (b), R205 (a)). -/
def schedWaits (s : State) : Bool :=
  s.sched.phase = .idle || s.sched.phase = .swWaitSvc || s.sched.phase = .swWaitOps

/-! ### Views read by `CFG_READ` (R118) -/

/-- The three driver classes of `DRIVER_STATUS`: 0 idle, 1 running, 2 tearing down. -/
def dccStatus : DccPhase → BitVec 2
  | .dIdle => 0
  | .dTeardown => 2
  | .dInit | .dCheck | .dSelect | .dTx | .dCutoutWait | .dCapture => 1

/-- The class of DECUPDRV. -/
def decupStatus : DecupPhase → BitVec 2
  | .uIdle => 0
  | .uTeardown => 2
  | .uInit | .uCheck | .uWaitPkt | .uTx | .uWin1 | .uWin2 | .uSettle => 1

/-- The class of MDUDRV. -/
def mduStatus : MduPhase → BitVec 2
  | .mIdle => 0
  | .mTeardown => 2
  | .mInit | .mCheck | .mWaitPkt | .mTx | .mEval => 1

/-- A deque length as an 8-bit register (R118); a length above 255 reads as a free value (log 16). -/
def countByte (P : Params) (n : Nat) : Byte :=
  if n ≤ 255 then BitVec.ofNat 8 n else P.wideCount n

/-- A read-only register (R118). -/
def readOnlyCsr (P : Params) (s : State) (i : BitVec 8) : Option (BitVec 16) :=
  match i.toNat with
  | 0x00 => some s.arbState
  | 0x20 => some ((BitVec.ofNat 8 s.priorityCount).setWidth 16)
  | 0x21 => some (s.curLim.setWidth 16)
  | 0x22 => some ((BitVec.ofBool s.bidiEn).setWidth 16)
  | 0x23 => some ((mduStatus s.mdu.phase ++ decupStatus s.decup.phase ++ dccStatus s.dcc.phase).setWidth 16)
  | 0x24 => some (s.mdu.rate.setWidth 16)
  | 0x25 => some ((BitVec.ofBool s.decup.idKnown).setWidth 16)
  | 0x26 => some ((countByte P s.cvsvc.length).setWidth 16)
  | 0x27 => some ((countByte P s.cvpom.length).setWidth 16)
  | _ => none

end Sys2Proof.Machine
end

