-- ==== Sys2Proof/Machine/Operands.lean ====
section
/-! DEFINITION. The operand checks of the commands (R201, R202, R207, R232 to R250, R400, R430) and the admission checks (R525). -/

namespace Sys2Proof.Machine

/-- A legal loco address, 1..10239 (R233). -/
def addrLegal (a : Addr) : Bool :=
  1 ≤ a.toNat && a.toNat ≤ 10239

/-- A legal speed-steps code (R112). -/
def stepsLegal (c : BitVec 3) : Bool :=
  (stepsCount c).isSome

/-- The speed value `v` of `rvvvvvvv` (R24). -/
def speedField (d : Byte) : BitVec 7 :=
  d.extractLsb' 0 7

/-- `d[6:0] ≤ N(c) + 1` (R235). -/
def speedLegal (c : BitVec 3) (d : Byte) : Bool :=
  match stepsCount c with
  | some n => (speedField d).toNat ≤ n + 1
  | none => false

/-- The mode of an external mode id, 0x07..0x0C (R207 of 40_arbiter.md). -/
def externalMode (b : BitVec 8) : Option Mode :=
  match Mode.ofId b with
  | some m => if driverOf m = .ext then some m else none
  | none => none

/-- A DCC payload: 3..6 bytes whose XOR is 0 (R247). -/
def dccPayloadOk (bytes : List Byte) : Bool :=
  3 ≤ bytes.length && bytes.length ≤ dccMaxPacket && xorAll bytes == 0

/-- A DECUP payload (R400). -/
def decupPayloadOk (P : Params) (bytes : List Byte) : Bool :=
  1 ≤ bytes.length && bytes.length ≤ P.decupMaxPacket

/-- An MDU payload (R430). -/
def mduPayloadOk (P : Params) (bytes : List Byte) : Bool :=
  1 ≤ bytes.length && bytes.length ≤ P.mduMaxPacket

/-- `STATE ∈ {DECUPZpp, DECUPZsu}` (R400). -/
def inDecupMode (s : State) : Bool :=
  s.arbState == modeValue .decupZpp || s.arbState == modeValue .decupZsu

/-- `STATE ∈ {MDUZpp, MDUZsu}` (R430). -/
def inMduMode (s : State) : Bool :=
  s.arbState == modeValue .mduZpp || s.arbState == modeValue .mduZsu

/-- The function groups of R233. -/
inductive Group where
  | fg1 | fg2a | fg2b | fg3 | fg4 | fg5
  deriving DecidableEq, Repr

/-- `group(i)` (R233). -/
def groupOf (i : BitVec 5) : Group :=
  if i.toNat ≤ 4 then .fg1
  else if i.toNat ≤ 8 then .fg2a
  else if i.toNat ≤ 12 then .fg2b
  else if i.toNat ≤ 20 then .fg3
  else if i.toNat ≤ 28 then .fg4
  else .fg5

/-- `f[i] <- on` (R236). -/
def setFunction (f : BitVec 32) (i : BitVec 5) (on : Bool) : BitVec 32 :=
  if on then f ||| (1#32 <<< i.toNat) else f &&& ~~~(1#32 <<< i.toNat)

/-- Direction kept, speed 0 (R237). -/
def stopKeepingDirection (d : Byte) : Byte :=
  d &&& 0x80#8

end Sys2Proof.Machine
end

