-- ==== Sys2Proof/Machine/Flags.lean ====
section
/-! DEFINITION. The flag computations: BiDi parity (R381), the two channel bits (R362, R363), the ACK pulse test (R463), the DECUP
edge count (R406, R411) and the MDU ack code (R439). -/

namespace Sys2Proof.Machine

/-- `popcount(b)` (R8). -/
def popcount (b : Byte) : Nat :=
  ((List.range 8).filter fun i => b.getLsbD i).length

/-- The parity check of channel 2: every byte has four 1 bits (R381). -/
def parityOk (ch2 : List Byte) : Bool :=
  ch2.all fun b => popcount b == 4

/-- An entry that carries no data: no byte, or only bytes 0x00 (R380). -/
def noData (ch2 : List Byte) : Bool :=
  ch2.all fun b => b == 0

/-- `NOTIFY.val`: bit 0 = channel 1 present, bit 1 = channel 2 present (R126, R363). -/
def notifyVal (ch1 ch2 : Bool) : BitVec 2 :=
  (BitVec.ofBool ch2 ++ BitVec.ofBool ch1).cast (by decide)

/-- The sum of a window of samples (R461). -/
def windowSum (win : List (BitVec 16)) : Nat :=
  (win.map BitVec.toNat).sum

/-- How many samples of a window are 0 (R461). -/
def windowZeros (win : List (BitVec 16)) : Nat :=
  (win.filter fun x => x == 0).length

/-- The window after one more sample: the last `ACK_WINDOW` ones (R461). -/
def windowPush (win : List (BitVec 16)) (x : BitVec 16) : List (BitVec 16) :=
  (win ++ [x]).drop ((win ++ [x]).length - ackWindow)

/-- The ACK pulse test (R463). -/
def ackPulse (sum ref current zeros : Nat) : Bool :=
  ref + ackWindow * current < sum && 10 * zeros < ackWindow

/-- The saturating edge counter (R406). -/
def edgeCount (edges : Nat) : Nat :=
  min (edges + 1) 255

/-- The raw DECUP edge count (R411). -/
def rawCount (edges : Nat) : Nat :=
  min edges 2

/-- The MDU ack code: no capture is nak at both positions; else the nearer expected count wins, a tie is short (R439). -/
def mduCode (capture : Option (BitVec 32)) (counts : Nat × Nat) : Byte :=
  match capture with
  | none => 0b00#8
  | some c =>
    if ((c.toNat : Int) - counts.1).natAbs ≤ ((c.toNat : Int) - counts.2).natAbs then 0b01#8 else 0b10#8

end Sys2Proof.Machine
end

