-- ==== Sys2Proof/Machine/Packets.lean ====
section
/-! DEFINITION. The packet builders (R300 to R308) and the bit encoder (R310 to R319). -/

namespace Sys2Proof.Machine

/-! ### Builders -/

/-- `addr_bytes(a)` (R300). -/
def addrPrefix (a : Addr) : List Byte :=
  if a.toNat ≤ 127 then [a.setWidth 8] else [0xC0#8 ||| (a >>> 8).setWidth 8, a.setWidth 8]

/-- `seal(bs)` (R301). -/
def sealPacket (bs : List Byte) : List Byte :=
  bs ++ [xorAll bs]

/-- The 28-step code of a speed value: 0 for stop, 2 for emergency stop, else `v + 2` (R302). -/
def speed28Code (v : BitVec 7) : Nat :=
  if v = 0 then 0 else if v = 1 then 2 else v.toNat + 2

/-- `speed_packet(a, L)` (R302). A loco of an illegal speed-steps code does not exist (R24); it is read as 128 steps. -/
def speedPacket (a : Addr) (l : Loco) : List Byte :=
  let r : Byte := (BitVec.ofBool (l.rvvvvvvv.getLsbD 7)).setWidth 8
  let v := speedField l.rvvvvvvv
  let f0 : Byte := (BitVec.ofBool (l.f31_0.getLsbD 0)).setWidth 8
  match l.speedSteps.toNat with
  | 0 => sealPacket (addrPrefix a ++ [0x40#8 ||| (r <<< 5) ||| (f0 <<< 4) ||| v.setWidth 8])
  | 2 =>
    let c : Byte := BitVec.ofNat 8 (speed28Code v)
    sealPacket (addrPrefix a ++ [0x40#8 ||| (r <<< 5) ||| ((c &&& 1#8) <<< 4) ||| (c >>> 1)])
  | _ => sealPacket (addrPrefix a ++ [0x3F#8, (r <<< 7) ||| v.setWidth 8])

/-- The instruction bytes of a function group (R303). -/
def groupBytes (f : BitVec 32) : Group → List Byte
  | .fg1 => [0x80#8 ||| ((f.extractLsb' 0 1).setWidth 8 <<< 4) ||| (f.extractLsb' 1 4).setWidth 8]
  | .fg2a => [0xB0#8 ||| (f.extractLsb' 5 4).setWidth 8]
  | .fg2b => [0xA0#8 ||| (f.extractLsb' 9 4).setWidth 8]
  | .fg3 => [0xDE#8, f.extractLsb' 13 8]
  | .fg4 => [0xDF#8, f.extractLsb' 21 8]
  | .fg5 => [0xD8#8, (f.extractLsb' 29 3).setWidth 8]

/-- `fg_packet(a, L, g)` (R303). -/
def fgPacket (a : Addr) (l : Loco) (g : Group) : List Byte :=
  sealPacket (addrPrefix a ++ groupBytes l.f31_0 g)

/-- `IDLE` (R304). -/
def idlePacket : List Byte := [0xFF#8, 0x00#8, 0xFF#8]

/-- `RESET` (R304). -/
def resetPacket : List Byte := [0x00#8, 0x00#8, 0x00#8]

/-- The two bytes of a CV index behind an instruction prefix: `pre | cvi[9:8]` and `cvi[7:0]`. -/
def cviBytes (pre : Byte) (k : Cvi) : List Byte :=
  [pre ||| (k.extractLsb' 8 2).setWidth 8, k.extractLsb' 0 8]

/-- `pom_packet(e)` (R305). -/
def pomPacket (e : PomReq) : List Byte :=
  match e.op with
  | .read => sealPacket (addrPrefix e.addr ++ cviBytes 0xE4#8 e.cvi ++ [0x00#8])
  | .write => sealPacket (addrPrefix e.addr ++ cviBytes 0xEC#8 e.cvi ++ [e.data])

/-- `svc_verify_byte(k, d)` (R306). -/
def svcVerifyByte (k : Cvi) (d : Byte) : List Byte :=
  sealPacket (cviBytes 0x74#8 k ++ [d])

/-- `svc_write_byte(k, d)` (R306). -/
def svcWriteByte (k : Cvi) (d : Byte) : List Byte :=
  sealPacket (cviBytes 0x7C#8 k ++ [d])

/-- `svc_verify_bit(k, D, i)` (R306). -/
def svcVerifyBit (k : Cvi) (v : Bool) (i : Nat) : List Byte :=
  sealPacket (cviBytes 0x78#8 k ++ [0xE0#8 ||| ((BitVec.ofBool v).setWidth 8 <<< 3) ||| BitVec.ofNat 8 i])

/-- `dcc_address(pkt)` (R308). -/
def dccAddress (pkt : List Byte) : Option Addr :=
  match pkt with
  | [] => none
  | b0 :: rest =>
    if b0 = 0 then none
    else if b0.toNat ≤ 0x7F then some (b0.setWidth 14)
    else if 0xC0 ≤ b0.toNat ∧ b0.toNat ≤ 0xE7 then
      some ((b0.extractLsb' 0 6 ++ rest.getD 0 0).cast (by decide))
    else none

/-! ### The packets of one loco (R258) -/

/-- One element of `P(L)`: the speed packet or a function group. -/
inductive LocoPacket where
  | speed
  | group (g : Group)
  deriving DecidableEq, Repr

/-- `P(L)`: speed, FG1, FG2a, FG2b and the configured higher groups. -/
def locoPackets (P : Params) : List LocoPacket :=
  [.speed, .group .fg1, .group .fg2a, .group .fg2b] ++
    [.group .fg3, .group .fg4, .group .fg5].take P.highFunctions

/-- `build(P(L)[k])`. -/
def buildPacket (a : Addr) (l : Loco) : LocoPacket → List Byte
  | .speed => speedPacket a l
  | .group g => fgPacket a l g

/-! ### Bit encoder -/

/-- A DCC bit of a half-bit duration (R146). -/
def bitSymbol (half : Nat) : Symbol where
  l0 := true
  d0 := BitVec.ofNat 15 half
  l1 := false
  d1 := BitVec.ofNat 15 half

/-- The durations a DCC driver takes from `ACT` and the parameters (R146, R318). -/
structure DccTiming where
  bit1 : Nat
  bit0 : Nat
  /-- the preamble count `P` -/
  preamble : Nat
  /-- `B`, and none where `be = 0` -/
  bidi : Option Nat
  offset : Nat
  deriving DecidableEq, Repr

/-- `max(1, B - OFFSET_ENDBIT)` (R318). -/
def endHalf (b offset : Nat) : Nat :=
  max 1 (b - offset)

/-- The end bit: `ENDBIT_BIDI` or ONE (R310, R318). -/
def endSymbol (t : DccTiming) : Symbol :=
  match t.bidi with
  | some b => { l0 := true, d0 := BitVec.ofNat 15 b, l1 := false, d1 := BitVec.ofNat 15 (endHalf b t.offset) }
  | none => bitSymbol t.bit1

/-- A byte, most significant bit first, after its zero separator (R310). -/
def byteSymbols (t : DccTiming) (b : Byte) : List Symbol :=
  bitSymbol t.bit0 ::
    (List.range 8).map fun i => if b.getLsbD (7 - i) then bitSymbol t.bit1 else bitSymbol t.bit0

/-- `dcc_symbols(pkt, P, be)` (R310). -/
def dccSymbols (t : DccTiming) (pkt : List Byte) : List Symbol :=
  List.replicate t.preamble (bitSymbol t.bit1) ++ pkt.flatMap (byteSymbols t) ++ [endSymbol t]

/-- `ones(pkt)` (R319). -/
def packetOnes (pkt : List Byte) : Nat :=
  (pkt.map popcount).sum

/-- `dur(pkt, P, be)` (R319). -/
def dccDuration (t : DccTiming) (pkt : List Byte) : Nat :=
  2 * t.bit1 * (t.preamble + packetOnes pkt) + 2 * t.bit0 * (pkt.length + (8 * pkt.length - packetOnes pkt)) +
    match t.bidi with
    | some b => b + endHalf b t.offset
    | none => 2 * t.bit1

/-- The timing of a mode from the latched settings, none where one holds *no value* (R311, R504). -/
def dccTiming (P : Params) (m : Mode) (bidiOn : Bool) (act : Settings) : Option DccTiming :=
  match settingNat act .bit1Duration, settingNat act .bit0Duration with
  | some b1, some b0 =>
    if m = .dccService then
      some { bit1 := b1, bit0 := b0, preamble := P.servicePreamble, bidi := none, offset := P.offsetEndbit }
    else
      match settingNat act .preamble, bidiOn, settingNat act .bidiBitDuration with
      | some p, false, _ => some { bit1 := b1, bit0 := b0, preamble := p, bidi := none, offset := P.offsetEndbit }
      | some p, true, some b => some { bit1 := b1, bit0 := b0, preamble := p, bidi := some b, offset := P.offsetEndbit }
      | _, _, _ => none
  | _, _ => none

end Sys2Proof.Machine
end

