-- ==== Sys2Proof/Machine/Cutout.lean ====
section
/-! DEFINITION. CUTOUT, the three alarms of the RailCom cutout (R360 to R365), and the gate of UARTRX (R370). -/

namespace Sys2Proof.Machine

/-- A cutout alarm is due: each at its exact instant (R360, R510). -/
def cutoutDue (P : Params) (s : State) : Bool :=
  match s.cutout.phase with
  | .cOff => false
  | .cWaitTcs => s.now == s.cutout.t0 + P.tTcs
  | .cWaitTs2 => s.now == s.cutout.t0 + P.tTs2
  | .cWaitTce => s.now == s.cutout.t0 + P.tTce

/-- TCS: mute the main driver (R361). -/
def cutoutTcs (s : State) : State :=
  { s with bidiEn := false, cutout := { s.cutout with phase := .cWaitTs2 } }

/-- TS2: sample channel 1 (R362). -/
def cutoutTs2 (s : State) : State :=
  { s with
    cutout := { s.cutout with ts2Len := s.uartFifo.length, ch1 := decide (0 < s.uartFifo.length), phase := .cWaitTce } }

/-- TCE: release the line and notify the driver (R363). -/
def cutoutTce (s : State) : State :=
  { s with
    bidiEn := true
    notify := { pending := true, val := notifyVal s.cutout.ch1 (decide (s.cutout.ts2Len < s.uartFifo.length)) }
    cutout := { s.cutout with phase := .cOff } }

/-- CUTOUT's step; held where no alarm is due. -/
def cutoutStep (P : Params) (s : State) : State :=
  if cutoutDue P s then
    match s.cutout.phase with
    | .cOff => s
    | .cWaitTcs => cutoutTcs s
    | .cWaitTs2 => cutoutTs2 s
    | .cWaitTce => cutoutTce s
  else s

/-- Whether a received byte is accepted (R370). -/
def uartAccepts (P : Params) (s : State) : Bool :=
  s.dcc.bidiOn && !s.bidiEn && decide (s.uartFifo.length < P.uartFifoSize)

/-- `@UART b`: a byte that is not accepted is lost (R370). -/
def uartStep (P : Params) (b : Byte) (s : State) : State :=
  if uartAccepts P s then { s with uartFifo := s.uartFifo ++ [b] } else s

end Sys2Proof.Machine
end

