-- ==== Sys2Proof/Machine/PacketTx.lean ====
section
/-! DEFINITION. The DCC packet rows: DCCDRV sends the packet it selected (R354 (b), (c)), log 5. -/

namespace Sys2Proof.Machine

/-- Start the transmission of a packet: its symbols go to the track, `tx_end` is set, `phase <- D_TX` (R354). Outside `D_SELECT`
no packet is sent and the driver is held (log 5). -/
def transmitPacket (P : Params) (bytes : List Byte) (s : State) : State :=
  match s.dcc.phase, s.dcc.mode with
  | .dSelect, some m =>
    match dccTiming P m s.dcc.bidiOn s.act with
    | some t =>
      emitTrack m (dccSymbols t bytes)
        { s with dcc := { s.dcc with txEnd := s.now + dccDuration t bytes, phase := .dTx } }
    | none => raiseFault .uninitSetting .dccdrv (.dccdrv .dSelect) s
  | _, _ => s

/-- Send a packet row. -/
def sendRow (P : Params) (i : Instr) (s : State) : Res :=
  .next (transmitPacket P (packetBytes i) s)

/-- DCC_IDLE (R133). -/
def execDccIdle (s : State) (P : Params := Config.params) : Res :=
  sendRow P .dccIdle s

/-- DCC_RESET (R133). -/
def execDccReset (s : State) (P : Params := Config.params) : Res :=
  sendRow P .dccReset s

/-- DCC_SPEED14 (R134). -/
def execDccSpeed14 (addr : Addr) (dir f0 : Bool) (speed : BitVec 4) (x : Byte) (s : State)
    (P : Params := Config.params) : Res :=
  sendRow P (.dccSpeed14 addr dir f0 speed x) s

/-- DCC_SPEED28 (R135). -/
def execDccSpeed28 (addr : Addr) (dir : Bool) (code : BitVec 5) (x : Byte) (s : State)
    (P : Params := Config.params) : Res :=
  sendRow P (.dccSpeed28 addr dir code x) s

/-- DCC_SPEED128 (R136). -/
def execDccSpeed128 (addr : Addr) (dir : Bool) (speed : BitVec 7) (x : Byte) (s : State)
    (P : Params := Config.params) : Res :=
  sendRow P (.dccSpeed128 addr dir speed x) s

/-- DCC_FG1 (R137). -/
def execDccFg1 (addr : Addr) (f : BitVec 5) (x : Byte) (s : State) (P : Params := Config.params) : Res :=
  sendRow P (.dccFg1 addr f x) s

/-- DCC_FG2A (R138). -/
def execDccFg2a (addr : Addr) (f : BitVec 4) (x : Byte) (s : State) (P : Params := Config.params) : Res :=
  sendRow P (.dccFg2a addr f x) s

/-- DCC_FG2B (R138). -/
def execDccFg2b (addr : Addr) (f : BitVec 4) (x : Byte) (s : State) (P : Params := Config.params) : Res :=
  sendRow P (.dccFg2b addr f x) s

/-- DCC_FG3 (R139). -/
def execDccFg3 (addr : Addr) (f : BitVec 8) (x : Byte) (s : State) (P : Params := Config.params) : Res :=
  sendRow P (.dccFg3 addr f x) s

/-- DCC_FG4 (R139). -/
def execDccFg4 (addr : Addr) (f : BitVec 8) (x : Byte) (s : State) (P : Params := Config.params) : Res :=
  sendRow P (.dccFg4 addr f x) s

/-- DCC_FG5 (R139). -/
def execDccFg5 (addr : Addr) (f : BitVec 3) (x : Byte) (s : State) (P : Params := Config.params) : Res :=
  sendRow P (.dccFg5 addr f x) s

/-- DCC_POM_READ (R140). -/
def execDccPomRead (addr : Addr) (cvi : Cvi) (x : Byte) (s : State) (P : Params := Config.params) : Res :=
  sendRow P (.dccPomRead addr cvi x) s

/-- DCC_POM_WRITE (R140). -/
def execDccPomWrite (addr : Addr) (cvi : Cvi) (data x : Byte) (s : State) (P : Params := Config.params) : Res :=
  sendRow P (.dccPomWrite addr cvi data x) s

/-- DCC_SVC_VERIFY_BYTE (R141). -/
def execDccSvcVerifyByte (cvi : Cvi) (data x : Byte) (s : State) (P : Params := Config.params) : Res :=
  sendRow P (.dccSvcVerifyByte cvi data x) s

/-- DCC_SVC_WRITE_BYTE (R141). -/
def execDccSvcWriteByte (cvi : Cvi) (data x : Byte) (s : State) (P : Params := Config.params) : Res :=
  sendRow P (.dccSvcWriteByte cvi data x) s

/-- DCC_SVC_VERIFY_BIT (R141). -/
def execDccSvcVerifyBit (cvi : Cvi) (bit : Bool) (pos : BitVec 3) (x : Byte) (s : State)
    (P : Params := Config.params) : Res :=
  sendRow P (.dccSvcVerifyBit cvi bit pos x) s

end Sys2Proof.Machine
end

