-- ==== Sys2Proof/Machine/SvcAck.lean ====
section
/-! DEFINITION. SVCACK, the service-mode current ACK detector (R460 to R466). -/

namespace Sys2Proof.Machine

/-- Enter `A_IDLE` with an empty window (R460, R351 (e)). -/
def svcAckStart (r : SvcAckRegs) : SvcAckRegs :=
  { r with phase := .aIdle, win := [], sum := 0, zeros := 0, ackSeen := false }

/-- The registers after a sample, before the ACK test (R461). -/
def svcAckSample (r : SvcAckRegs) (x : BitVec 16) : SvcAckRegs :=
  { r with
    win := windowPush r.win x
    sum := windowSum (windowPush r.win x)
    zeros := windowZeros (windowPush r.win x) }

/-- `@SAMPLE x` (R461, R463). The test reads `ref` and the ack current, which must have values (R504). -/
def sampleStep (x : BitVec 16) (s : State) : State :=
  match s.svcack.phase with
  | .aOff => s
  | .aIdle => { s with svcack := svcAckSample s.svcack x }
  | .aArmed =>
    let r := svcAckSample s.svcack x
    if r.win.length = ackWindow then
      match r.ref, settingNat s.act .programmingAckCurrent with
      | some ref, some current =>
        { s with svcack := { r with ackSeen := r.ackSeen || ackPulse r.sum ref current r.zeros } }
      | _, _ => raiseFault .uninitSetting .svcack (.svcack .aArmed) s
    else { s with svcack := r }

/-- First-packet action (R462). -/
def firstAction (s : State) : State :=
  match s.svcack.phase with
  | .aOff => s
  | .aIdle | .aArmed => { s with svcack := { s.svcack with ref := some s.svcack.sum, ackSeen := false, phase := .aArmed } }

/-- End action (R464). -/
def endAction (s : State) : State :=
  match s.svcack.phase with
  | .aArmed => { s with ackbuf := some s.svcack.ackSeen, svcack := { s.svcack with phase := .aIdle } }
  | .aOff | .aIdle => s

/-- The actions of the tags of a transmitted packet, the first-packet action first (R355). -/
def tagActions (p : Packet) (s : State) : State :=
  let s1 := if p.first then firstAction s else s
  if p.last then endAction s1 else s1

end Sys2Proof.Machine
end

