-- ==== Sys2Proof/Machine/DccDrv.lean ====
section
/-! DEFINITION. DCCDRV, the DCC driver (R213, R350 to R358). -/

namespace Sys2Proof.Machine

/-- Idle step of DCCDRV (R213). -/
def dccIdleStep (s : State) : State :=
  let s0 := { s with dcc := { s.dcc with resume := false } }
  match (modeOfState s.arbState).filter fun m => driverOf m = .dcc with
  | some m => { s0 with dcc := { s0.dcc with mode := some m, phase := .dInit } }
  | none =>
    if s.arbState = stSuspend then { clearDccQueues s0 with arbState := stSuspended } else clearDccQueues s0

/-- The receiver and cutout part of `D_INIT` and `D_TEARDOWN` (R351 (d), R358). -/
def dccReleaseBidi (s : State) : State :=
  { s with
    uartFifo := []
    notify := { pending := false, val := 0 }
    bidiEn := true
    cutout := { s.cutout with phase := .cOff } }

/-- The current-limit lines a mode entry sets, from the latched settings (R531, R128). -/
def entryLimit (m : Mode) (act : Settings) : BitVec 2 :=
  ((getSetting act (limitSetting m)).getD 0).setWidth 2

/-- `D_INIT` (R351). -/
def dccInit (hwOk : Bool) (m : Mode) (s : State) : State :=
  if settingsPresent s.cfg (settingsNeeded m) then
    if hwOk then
      let s1 := dccReleaseBidi { s with act := s.cfg, curLim := entryLimit m s.cfg }
      { s1 with
        dcc :=
          { s1.dcc with
            bidiOn := decide (m = .dccOperations ∧ s.cfg.bidiBitDuration ≠ some 0)
            phase := .dCheck }
        svcack := if m = .dccService then svcAckStart s1.svcack else s1.svcack }
    else raiseFault .hwFail .dccdrv (.dccdrv .dInit) s
  else raiseFault .uninitSetting .dccdrv (.dccdrv .dInit) s

/-- `D_CHECK` (R353). -/
def dccCheck (s : State) : State :=
  if s.arbState = stSuspend ∨ s.arbState = stShort then { s with dcc := { s.dcc with phase := .dTeardown } }
  else if s.dcc.mode.map modeValue = some s.arbState then { s with dcc := { s.dcc with phase := .dSelect } }
  else raiseFault .arbInvariant .dccdrv (.dccdrv .dCheck) s

/-- The filler packet of a mode (R354 (a)). -/
def fillerPacket (m : Mode) : Packet :=
  if m = .dccService then { bytes := resetPacket } else { bytes := idlePacket }

/-- The packet `D_SELECT` takes, and the state without it: front queue, back queue, filler (R354 (a)). -/
def selectPacket (m : Mode) (s : State) : Packet × State :=
  match s.frontq, s.backq with
  | e :: rest, _ => (e, { s with frontq := rest })
  | [], e :: rest => (e, { s with backq := rest })
  | [], [] => (fillerPacket m, s)

/-- In what context the bytes of a packet are read (log 7, log 8). -/
def packetContext (m : Mode) (bytes : List Byte) (s : State) : PacketCtx where
  service := decide (m = .dccService)
  steps14 :=
    match (dccAddress bytes).bind fun a => locoGet a s.locos with
    | some l => decide (l.speedSteps = 0)
    | none => false

/-- `D_SELECT`: the selected packet is executed; bytes that are no packet of the table are sent as they stand (R143, R354). -/
def dccSelect (P : Params) (m : Mode) (s : State) : Advance :=
  match dccTiming P m s.dcc.bidiOn s.act with
  | none => .run [] (raiseFault .uninitSetting .dccdrv (.dccdrv .dSelect) s)
  | some _ =>
    let e := (selectPacket m s).1
    let s1 := (selectPacket m s).2
    let s2 := { s1 with dcc := { s1.dcc with cur := some e } }
    match decode (.packet (packetContext m e.bytes s) e.bytes) with
    | .ok i => .run [i] s2
    | .error _ => .run [] (transmitPacket P e.bytes s2)

/-- The RMT "transmission done" condition of DCCDRV (R355, R510). -/
def dccTxDue (s : State) : Bool :=
  decide (s.dcc.phase = .dTx) && decide (s.dcc.txEnd ≤ s.now)

/-- `D_TX` (R355). -/
def dccTxDone (s : State) : State :=
  let s1 :=
    match s.dcc.cur with
    | some p => tagActions p s
    | none => s
  if s.dcc.bidiOn then
    { s1 with
      cutout := { s1.cutout with t0 := s.now, phase := .cWaitTcs }
      dcc := { s1.dcc with phase := .dCutoutWait } }
  else { s1 with dcc := { s1.dcc with phase := .dCheck } }

/-- A captured datagram buffer: `skip` bytes 0x00, the bytes read, 0x00 up to 8 bytes (R357). -/
def datagramBuffer (skip : Nat) (bytes : List Byte) : List Byte :=
  (List.replicate skip (0 : Byte) ++ bytes ++ List.replicate 8 (0 : Byte)).take 8

/-- What `D_CAPTURE` forwards, none where no channel was present (R357 (a) to (c)). -/
def capturedEntry (pkt : List Byte) (val : BitVec 2) (fifo : List Byte) : Option Feedback :=
  if val = 0 then none
  else if val.getLsbD 0 then
    some
      { pkt := pkt, dg := datagramBuffer 0 (fifo.take 8), n1 := min (min fifo.length 8) 2,
        n2 := min fifo.length 8 - min (min fifo.length 8) 2 }
  else some { pkt := pkt, dg := datagramBuffer 2 (fifo.take 6), n1 := 0, n2 := min fifo.length 6 }

/-- Push to `FEEDBACKQ`, or drop where it is full (R357). -/
def pushFeedback (P : Params) (f : Option Feedback) (s : State) : State :=
  match f with
  | some e => if s.feedbackq.length < P.feedbackCap then { s with feedbackq := s.feedbackq ++ [e] } else s
  | none => s

/-- `D_CAPTURE` (R357). -/
def dccCapture (P : Params) (s : State) : State :=
  let pkt := (s.dcc.cur.map Packet.bytes).getD []
  let s1 := pushFeedback P (capturedEntry pkt s.notify.val s.uartFifo) s
  { s1 with
    notify := { pending := false, val := 0 }
    uartFifo := []
    dcc := { s1.dcc with phase := .dCheck } }

/-- `D_TEARDOWN`, the suspend routine (R358). -/
def dccTeardown (hwOk : Bool) (s : State) : State :=
  if hwOk then
    match terminalValue s.dcc.mode s.arbState with
    | some v =>
      let s1 := dccReleaseBidi (clearDccQueues s)
      { s1 with
        arbState := v
        svcack := { s1.svcack with phase := .aOff }
        dcc := { s1.dcc with mode := none, cur := none, bidiOn := false, phase := .dIdle } }
    | none => raiseFault .arbInvariant .dccdrv (.dccdrv .dTeardown) s
  else raiseFault .hwFail .dccdrv (.dccdrv .dTeardown) s

/-- DCCDRV's step, held where its phase is not enabled. A phase without a mode is not reached (R211). -/
def dccStep (P : Params) (hwOk : Bool) (s : State) : Advance :=
  match s.dcc.phase, s.dcc.mode with
  | .dIdle, _ => .run [] (if s.dcc.resume then dccIdleStep s else s)
  | .dInit, some m => .run [] (dccInit hwOk m s)
  | .dCheck, _ => .run [] (dccCheck s)
  | .dSelect, some m => dccSelect P m s
  | .dTx, _ => .run [] (if dccTxDue s then dccTxDone s else s)
  | .dCutoutWait, _ =>
    .run [] (if s.notify.pending then { s with dcc := { s.dcc with phase := .dCapture } } else s)
  | .dCapture, _ => .run [] (dccCapture P s)
  | .dTeardown, _ => .run [] (dccTeardown hwOk s)
  | .dInit, none | .dSelect, none => .run [] s

end Sys2Proof.Machine
end

