-- ==== Sys2Proof/Machine/DecupDrv.lean ====
section
/-! DEFINITION. DECUPDRV and DECUPEDGE (R213, R401 to R415). -/

namespace Sys2Proof.Machine

/-- Idle step of DECUPDRV (R213). -/
def decupIdleStep (s : State) : State :=
  let s0 := { s with decup := { s.decup with resume := false } }
  match (modeOfState s.arbState).filter fun m => driverOf m = .decup with
  | some m => { s0 with decup := { s0.decup with mode := some m, phase := .uInit } }
  | none =>
    if s.arbState = stSuspend then { clearDecupQueues s0 with arbState := stSuspended } else clearDecupQueues s0

/-- `U_INIT` (R401). -/
def decupInit (P : Params) (hwOk : Bool) (s : State) : State :=
  match getSetting s.cfg .currentLimit with
  | some lim =>
    if hwOk then
      { s with
        act := s.cfg
        curLim := lim.setWidth 2
        decup :=
          { s.decup with
            edges := 0, raw := 0, idKnown := false
            idleDeadline := s.now + P.sessionTimeoutDecup
            exitTimeout := false
            phase := .uCheck } }
    else raiseFault .hwFail .decupdrv (.decupdrv .uInit) s
  | none => raiseFault .uninitSetting .decupdrv (.decupdrv .uInit) s

/-- `U_CHECK` (R403). -/
def decupCheck (s : State) : State :=
  if s.arbState = stSuspend ∨ s.arbState = stShort then { s with decup := { s.decup with phase := .uTeardown } }
  else if s.decup.mode.map modeValue = some s.arbState then { s with decup := { s.decup with phase := .uWaitPkt } }
  else raiseFault .arbInvariant .decupdrv (.decupdrv .uCheck) s

/-- `U_WAITPKT` (R404), held where no condition holds. -/
def decupWaitPkt (P : Params) (m : Mode) (s : State) : State :=
  if s.arbState ≠ modeValue m then { s with decup := { s.decup with phase := .uCheck } }
  else
    match s.decupInq with
    | pkt :: rest =>
      emitTrack m (P.decupSymbols pkt)
        { s with
          decupInq := rest
          decup := { s.decup with cur := some pkt, txEnd := s.now + symbolsDur (P.decupSymbols pkt), phase := .uTx } }
    | [] =>
      if s.decup.idleDeadline ≤ s.now then { s with decup := { s.decup with exitTimeout := true, phase := .uTeardown } }
      else s

/-- The length of the first window (R405). -/
def decupWindow (P : Params) (m : Mode) (pkt : List Byte) : Nat :=
  if P.decupIsData m pkt then decupWinDataUs else decupWinShortUs

/-- `U_TX` (R405). -/
def decupTxDone (P : Params) (m : Mode) (pkt : List Byte) (s : State) : State :=
  { s with decup := { s.decup with edges := 0, winDeadline := s.now + decupWindow P m pkt, phase := .uWin1 } }

/-- `U_WIN1` (R407). -/
def decupWin1 (s : State) : State :=
  if 1 ≤ s.decup.edges then { s with decup := { s.decup with t2 := s.now + decupSecondUs, phase := .uWin2 } }
  else { s with decup := { s.decup with raw := 0, settleEnd := s.now + decupSettleUs, phase := .uSettle } }

/-- `U_WIN2` (R411). -/
def decupWin2 (s : State) : State :=
  { s with decup := { s.decup with raw := rawCount s.decup.edges, settleEnd := s.now + decupSettleUs, phase := .uSettle } }

/-- `U_SETTLE` (R412). -/
def decupSettle (P : Params) (m : Mode) (pkt : List Byte) (s : State) : State :=
  let code := P.decupWorkaround m pkt s.decup.idKnown s.decup.raw
  emitDecupAck (BitVec.ofNat 8 code)
    { s with
      decupReply := s.decupReply ++ [BitVec.ofNat 8 code]
      decup :=
        { s.decup with
          idKnown := P.decupIdUpdate m pkt s.decup.idKnown code
          cur := none
          idleDeadline := s.now + P.sessionTimeoutDecup
          phase := .uCheck } }

/-- `U_TEARDOWN`, the suspend routine (R410). -/
def decupTeardown (hwOk : Bool) (s : State) : State :=
  if hwOk then
    match terminalValue s.decup.mode s.arbState with
    | some v =>
      { clearDecupQueues s with
        arbState := v
        decup :=
          { s.decup with
            edges := 0, raw := 0, idKnown := false, mode := none, cur := none, exitTimeout := false, phase := .uIdle } }
    | none => raiseFault .arbInvariant .decupdrv (.decupdrv .uTeardown) s
  else raiseFault .hwFail .decupdrv (.decupdrv .uTeardown) s

/-- The RMT "transmission done" condition of DECUPDRV (R405). -/
def decupTxDue (s : State) : Bool :=
  decide (s.decup.phase = .uTx) && decide (s.decup.txEnd ≤ s.now)

/-- The class 4 urgent conditions of DECUPDRV (R407, R411, R412, R511). -/
def decupPollDue (P : Params) (s : State) : Bool :=
  match s.decup.phase with
  | .uWin1 => decide (1 ≤ s.decup.edges) || decide (s.decup.winDeadline ≤ s.now)
  | .uWin2 => decide (s.decup.t2 ≤ s.now)
  | .uSettle => decide (s.decup.settleEnd ≤ s.now) && decide (s.decupReply.length < P.replyCap)
  | .uIdle | .uInit | .uCheck | .uWaitPkt | .uTx | .uTeardown => false

/-- DECUPDRV's step in a phase, whose enabling condition holds for the urgent phases. -/
def decupAct (P : Params) (hwOk : Bool) (s : State) : State :=
  match s.decup.phase, s.decup.mode, s.decup.cur with
  | .uIdle, _, _ => if s.decup.resume then decupIdleStep s else s
  | .uInit, _, _ => decupInit P hwOk s
  | .uCheck, _, _ => decupCheck s
  | .uWaitPkt, some m, _ => decupWaitPkt P m s
  | .uTx, some m, some pkt => decupTxDone P m pkt s
  | .uWin1, _, _ => decupWin1 s
  | .uWin2, _, _ => decupWin2 s
  | .uSettle, some m, some pkt => decupSettle P m pkt s
  | .uTeardown, _, _ => decupTeardown hwOk s
  | .uWaitPkt, none, _ | .uTx, _, _ | .uSettle, _, _ => s

/-- DECUPEDGE's step (R406). -/
def decupEdge (s : State) : State :=
  match s.decup.phase with
  | .uWin1 | .uWin2 => { s with decup := { s.decup with edges := edgeCount s.decup.edges } }
  | .uIdle | .uInit | .uCheck | .uWaitPkt | .uTx | .uSettle | .uTeardown => s

/-- `@REPLY_DECUP` (R415). -/
def replyDecupStep (s : State) : State :=
  { s with decupReply := s.decupReply.drop 1 }

end Sys2Proof.Machine
end

