-- ==== Sys2Proof/Machine/HostPort.lean ====
section
/-! DEFINITION. The command ports: intake, execution and push of HOST (R231, R232), the commands of ANALOG and EXT (R200, R231,
R526), and delivery from outside (R631). -/

namespace Sys2Proof.Machine

/-- The command at the head of a port with all its payload words, and what follows it (R113, R115); none where no whole command
is there. -/
def headCommand : List Word → Option (Command × List Word)
  | [] => none
  | w :: rest =>
    if payloadCount w ≤ rest.length then
      some ({ word := w, payload := unpackPayload (rest.take (payloadCount w)) (CmdFields.ofWord w).len.toNat },
        rest.drop (payloadCount w))
    else none

/-- Whether words are whole commands; fuel is the number of words (R631: a partial command is never sent). -/
def wholeCommands : Nat → List Word → Bool
  | _, [] => true
  | 0, _ :: _ => false
  | n + 1, w :: rest => decide (payloadCount w ≤ rest.length) && wholeCommands n (rest.drop (payloadCount w))

/-- Append to the commands of a port. -/
def portDeliver (ws : List Word) (p : Port) : Port :=
  { p with cmds := p.cmds ++ ws }

/-- The outside puts whole commands on a port; anything else is no move (R631). -/
def deliverStep (who : Issuer) (ws : List Word) (s : State) : State :=
  if wholeCommands ws.length ws then
    match who with
    | .host => { s with hostPort := portDeliver ws s.hostPort }
    | .analog => { s with analogPort := portDeliver ws s.analogPort }
    | .ext => { s with extPort := portDeliver ws s.extPort }
  else s

/-- `H_IDLE` (R231), held where the port holds no command. -/
def hostIntake (s : State) : State :=
  match headCommand s.hostPort.cmds with
  | some (c, rest) =>
    { s with hostPort := { s.hostPort with cmds := rest }, host := { s.host with phase := .hExec, cmd := some c } }
  | none => s

/-- The status of a command that is no instruction (R122, R232). -/
def rejectStatus : Reject → Byte
  | .illegal => statusIllegal
  | .badOperand | .partialCommand | .notATablePacket | .notADatagram | .notAStatus | .notAnEvent => statusBadOperand

/-- `H_EXEC` (R231, R232): the decoded instruction runs; words that are no instruction are answered. -/
def hostExec (c : Command) (s : State) : Advance :=
  match decodeCommand c.word c.payload with
  | .ok i => .run [i] { s with issuer := .host }
  | .error r => .run [] (respond (rejectStatus r) 0 { s with issuer := .host })

/-- `H_PUSH` (R231), held while the queue is full and `STATE` is as at admission. -/
def hostPush (P : Params) (p : Pending) (s : State) : State :=
  if s.arbState = p.adm then
    if 0 < targetFree P s p.target then respond statusOk 0 (targetPush p.target p.bytes { s with issuer := .host }) else s
  else respond statusOk 0 { s with issuer := .host }

/-- HOST's step (R231). -/
def hostStep (P : Params) (s : State) : Advance :=
  match s.host.phase, s.host.cmd, s.host.pend with
  | .hIdle, _, _ => .run [] (hostIntake s)
  | .hExec, some c, _ => hostExec c s
  | .hPush, _, some p => .run [] (hostPush P p s)
  | .hExec, none, _ | .hPush, _, none => .run [] s

/-- Whether a command word is one that ANALOG and EXT may issue (R231, R526). -/
def arbitrationWord (w : Word) : Bool :=
  match Opcode.ofByte (CmdFields.ofWord w).op with
  | some o => o.isArbitration
  | none => false

/-- ANALOG or EXT executes the command at the head of its port in one step (R200, R231). -/
def issuerStep (who : Issuer) (p : Port) (s : State) : Advance :=
  match headCommand p.cmds with
  | none => .run [] s
  | some (c, _) =>
    if arbitrationWord c.word then
      match decodeCommand c.word c.payload with
      | .ok i => .run [i] { s with issuer := who }
      | .error r => .run [] (respond (rejectStatus r) 0 { s with issuer := who })
    else .run [] (respond statusIllegal 0 { s with issuer := who })

end Sys2Proof.Machine
end

