-- ==== Sys2Proof/Machine/MduDrv.lean ====
section
/-! DEFINITION. MDUDRV and MDUCAP (R213, R431 to R442). -/

namespace Sys2Proof.Machine

/-- Idle step of MDUDRV (R213). -/
def mduIdleStep (s : State) : State :=
  let s0 := { s with mdu := { s.mdu with resume := false } }
  match (modeOfState s.arbState).filter fun m => driverOf m = .mdu with
  | some m => { s0 with mdu := { s0.mdu with mode := some m, phase := .mInit } }
  | none =>
    if s.arbState = stSuspend then { clearMduQueues s0 with arbState := stSuspended } else clearMduQueues s0

/-- `M_INIT` (R431). -/
def mduInit (P : Params) (hwOk : Bool) (s : State) : State :=
  match getSetting s.cfg .mduPreamble, getSetting s.cfg .mduAckreq, getSetting s.cfg .currentLimit with
  | some _, some _, some lim =>
    if hwOk then
      { s with
        act := s.cfg
        curLim := lim.setWidth 2
        mdu :=
          { s.mdu with
            rate := P.mduDefaultRate, capture := none
            idleDeadline := s.now + P.sessionTimeoutMdu
            exitTimeout := false
            phase := .mCheck } }
    else raiseFault .hwFail .mdudrv (.mdudrv .mInit) s
  | _, _, _ => raiseFault .uninitSetting .mdudrv (.mdudrv .mInit) s

/-- `M_CHECK` (R433). -/
def mduCheck (s : State) : State :=
  if s.arbState = stSuspend ∨ s.arbState = stShort then { s with mdu := { s.mdu with phase := .mTeardown } }
  else if s.mdu.mode.map modeValue = some s.arbState then { s with mdu := { s.mdu with phase := .mWaitPkt } }
  else raiseFault .arbInvariant .mdudrv (.mdudrv .mCheck) s

/-- `M_WAITPKT` (R435), held where no condition holds. -/
def mduWaitPkt (P : Params) (m : Mode) (s : State) : State :=
  if s.arbState ≠ modeValue m then { s with mdu := { s.mdu with phase := .mCheck } }
  else
    match s.mduInq with
    | pkt :: rest =>
      match getSetting s.act .mduPreamble, getSetting s.act .mduAckreq with
      | some pre, some ackreq =>
        let syms := P.mduSymbols pkt pre ackreq (P.mduRates s.mdu.rate)
        emitTrack m syms
          { s with
            mduInq := rest
            mdu :=
              { s.mdu with
                cur := some pkt, capture := none, timerBase := s.now, txEnd := s.now + symbolsDur syms, phase := .mTx } }
      | _, _ => raiseFault .uninitSetting .mdudrv (.mdudrv .mWaitPkt) s
    | [] =>
      if s.mdu.idleDeadline ≤ s.now then { s with mdu := { s.mdu with exitTimeout := true, phase := .mTeardown } }
      else s

/-- The rate after a packet (R441). -/
def mduNextRate (P : Params) (pkt : List Byte) (code rate : Byte) : Byte :=
  if P.mduIsCtr pkt then if code ≠ 0 then P.mduFallbackRate else P.mduCtrRate pkt else rate

/-- `M_EVAL` (R439). -/
def mduEval (P : Params) (pkt : List Byte) (s : State) : State :=
  match getSetting s.act .mduPreamble, getSetting s.act .mduAckreq with
  | some pre, some ackreq =>
    let code := mduCode s.mdu.capture (P.mduExpectedCounts pkt pre ackreq (P.mduRates s.mdu.rate))
    emitMduAck code
      { s with
        mduReply := s.mduReply ++ [code]
        mdu :=
          { s.mdu with
            rate := mduNextRate P pkt code s.mdu.rate
            cur := none, capture := none
            idleDeadline := s.now + P.sessionTimeoutMdu
            phase := .mCheck } }
  | _, _ => raiseFault .uninitSetting .mdudrv (.mdudrv .mEval) s

/-- `M_TEARDOWN`, the suspend routine (R438). -/
def mduTeardown (P : Params) (hwOk : Bool) (s : State) : State :=
  if hwOk then
    match terminalValue s.mdu.mode s.arbState with
    | some v =>
      { clearMduQueues s with
        arbState := v
        mdu :=
          { s.mdu with
            capture := none, rate := P.mduDefaultRate, mode := none, cur := none, exitTimeout := false, phase := .mIdle } }
    | none => raiseFault .arbInvariant .mdudrv (.mdudrv .mTeardown) s
  else raiseFault .hwFail .mdudrv (.mdudrv .mTeardown) s

/-- The RMT "transmission done" condition of MDUDRV (R437). -/
def mduTxDue (s : State) : Bool :=
  decide (s.mdu.phase = .mTx) && decide (s.mdu.txEnd ≤ s.now)

/-- The class 4 urgent condition of MDUDRV (R439, R511). -/
def mduPollDue (P : Params) (s : State) : Bool :=
  decide (s.mdu.phase = .mEval) && decide (s.mduReply.length < P.replyCap)

/-- MDUDRV's step in a phase, whose enabling condition holds for the urgent phases. -/
def mduAct (P : Params) (hwOk : Bool) (s : State) : State :=
  match s.mdu.phase, s.mdu.mode, s.mdu.cur with
  | .mIdle, _, _ => if s.mdu.resume then mduIdleStep s else s
  | .mInit, _, _ => mduInit P hwOk s
  | .mCheck, _, _ => mduCheck s
  | .mWaitPkt, some m, _ => mduWaitPkt P m s
  | .mTx, _, _ => { s with mdu := { s.mdu with phase := .mEval } }
  | .mEval, _, some pkt => mduEval P pkt s
  | .mTeardown, _, _ => mduTeardown P hwOk s
  | .mWaitPkt, none, _ | .mEval, _, none => s

/-- The time since the first symbol as a 32-bit timer count; a free value where it does not fit (R42, R436, log 22). -/
def captureCount (P : Params) (t : Nat) : BitVec 32 :=
  if t < 2 ^ 32 then BitVec.ofNat 32 t else P.wideCapture t

/-- MDUCAP's step: the first edge of a packet is captured (R436). -/
def mduCapture (P : Params) (s : State) : State :=
  match s.mdu.phase, s.mdu.capture with
  | .mTx, none => { s with mdu := { s.mdu with capture := some (captureCount P (s.now - s.mdu.timerBase)) } }
  | _, _ => s

/-- `@REPLY_MDU` (R442). -/
def replyMduStep (s : State) : State :=
  { s with mduReply := s.mduReply.drop 1 }

end Sys2Proof.Machine
end

