-- ==== Sys2Proof/Machine/Bidi.lean ====
section
/-! DEFINITION. Datagram decode (R380 to R387) and the two datagrams (R385, R386). -/

namespace Sys2Proof.Machine

/-- The bytes of channel 2 (R380). -/
def channel2 (f : Feedback) : List Byte :=
  (f.dg.drop 2).take f.n2

/-- The parse loop of R383, one datagram or one skipped `ACK` per unit of fuel: the datagrams in order. -/
def parseSymbols : Nat → List BidiSymbol → List Instr
  | 0, _ => []
  | _ + 1, [] => []
  | n + 1, .ack :: rest => parseSymbols n rest
  | n + 1, .data d :: rest =>
    match datagramHead (.data d :: rest) with
    | some (i, k) => i :: parseSymbols n ((.data d :: rest).drop k)
    | none => []
  | _ + 1, _ :: _ => []

/-- The datagrams of a feedback entry, none for an entry without data or with a parity error (R380, R381, R387). -/
def feedbackInstrs (P : Params) (f : Feedback) : List Instr :=
  if noData (channel2 f) || !parityOk (channel2 f) then []
  else parseSymbols (channel2 f).length ((channel2 f).map P.bidiDecode)

/-- `app:pom`: the answer to the POM request that was sent (R385). -/
def execBidiAppPom (value : Byte) (s : State) : Res :=
  match s.cvpom with
  | [] => .next s
  | e :: rest =>
    if e.sent && s.rxPkt == pomPacket e then .next (emitCvAck e.addr e.cvi value { s with cvpom := rest })
    else .next s

/-- The update of R386, none for a subindex without one. -/
def dynUpdate (dv : Byte) (subindex : BitVec 6) (l : Loco) : Option Loco :=
  match subindex.toNat with
  | 0 => some { l with rcSpeed := dv.setWidth 16, rcOptions := l.rcOptions ||| 0x01#8 }
  | 1 => some { l with rcSpeed := dv.setWidth 16 + 256#16, rcOptions := l.rcOptions ||| 0x02#8 }
  | 7 => some { l with rcQos := dv, rcOptions := l.rcOptions ||| 0x04#8 }
  | _ => none

/-- `app:dyn`: RailCom data of a loco (R386). -/
def execBidiAppDyn (dv : Byte) (subindex : BitVec 6) (s : State) : Res :=
  match dccAddress s.rxPkt with
  | none => .next s
  | some a =>
    match locoGet a s.locos with
    | none => .next s
    | some l =>
      match dynUpdate dv subindex l with
      | none => .next s
      | some l' => .next (emitRailcom a (setLoco a l' s))

end Sys2Proof.Machine
end

