-- ==== Sys2Proof/Machine/Sched.lean ====
section
/-! DEFINITION. SCHED, the DCC operations and service scheduler (R252 to R290). -/

namespace Sys2Proof.Machine

/-! ### Guard and abandon -/

/-- The guard of a phase outside `IDLE` (R253). -/
def schedGuard (s : State) : Bool :=
  match s.sched.phase with
  | .idle => true
  | .opsStart | .opsIdleFill | .opsLoco | .opsPassEnd | .opsSvc | .opsPom | .opsBidi | .swToSvc =>
    s.arbState == modeValue .dccOperations
  | .svcEntry | .svcStartReset | .svcNext | .svcRun | .attProg | .attReset | .attWait | .swToOps =>
    s.arbState == modeValue .dccService
  | .swWaitSvc | .swWaitOps => s.arbState == stSuspend || s.arbState == stSuspended

/-- `CV_NACK_SC` after a short circuit, else `CV_NACK` (R290). -/
def emitNack (short : Bool) (a : Addr) (k : Cvi) (s : State) : State :=
  if short then emitCvNackSc a k s else emitCvNack a k s

/-- Answer every queued CV request, service requests first (R290). -/
def nackAll (s : State) : State :=
  let short := decide (s.arbState = stShort)
  let s1 := s.cvsvc.foldl (fun t e => emitNack short 0 e.cvi t) s
  s.cvpom.foldl (fun t e => emitNack short e.addr e.cvi t) s1

/-- The abandon step (R290). -/
def abandon (s : State) : State :=
  { nackAll s with cvsvc := [], cvpom := [], ackbuf := none, sched := SchedRegs.reset }

/-- A read of an `ACT` setting with *no value* (R504). -/
def schedFault (s : State) : State :=
  raiseFault .uninitSetting .sched (.sched s.sched.phase) s

/-! ### Idle and operations loop -/

/-- `IDLE` (R254). -/
def schedIdle (s : State) : State :=
  if s.arbState = modeValue .dccOperations then
    { s with sched := { s.sched with selfSuspend := false, phase := .opsStart } }
  else if s.arbState = modeValue .dccService then
    { s with sched := { s.sched with selfSuspend := false, phase := .svcEntry } }
  else s

/-- `OPS_START` (R255). -/
def opsStart (P : Params) (s : State) : State :=
  if 2 * backFree P s < P.backCap then { s with sched := { s.sched with phase := .opsSvc } }
  else
    match locoFirst s.locos with
    | none => { s with sched := { s.sched with phase := .opsIdleFill } }
    | some a => { s with sched := { s.sched with it := some a, k := 0, phase := .opsLoco } }

/-- `OPS_IDLEFILL` (R256). -/
def opsIdleFill (P : Params) (s : State) : State :=
  if 4 * backFree P s < P.backCap then { s with sched := { s.sched with phase := .opsSvc } }
  else pushBack { bytes := idlePacket } s

/-- The advance to the next loco (R258). -/
def advanceLoco (a : Addr) (s : State) : State :=
  match locoAfter a s.locos with
  | some b => { s with sched := { s.sched with it := some b, k := 0 } }
  | none => { s with sched := { s.sched with it := none, k := 0, phase := .opsPassEnd } }

/-- One more pass served: the priority ages (R258 (d)). -/
def agePriority (P : Params) (l : Loco) : Loco :=
  { l with priority := min (l.priority + 1) P.maxPriority }

/-- `OPS_LOCO` at the address `a` (R258). -/
def opsLoco (P : Params) (a : Addr) (s : State) : State :=
  match locoGet a s.locos with
  | none => advanceLoco a s
  | some l =>
    if s.sched.k = 0 ∧ s.priorityCount % l.priority ≠ 0 then advanceLoco a s
    else if 4 * backFree P s < P.backCap then
      { s with sched := { s.sched with it := none, k := 0, phase := .opsSvc } }
    else
      match (locoPackets P)[s.sched.k]? with
      | none => s
      | some p =>
        let s1 := pushBack { bytes := buildPacket a l p } s
        if s.sched.k + 1 = (locoPackets P).length then advanceLoco a (setLoco a (agePriority P l) s1)
        else { s1 with sched := { s1.sched with k := s.sched.k + 1 } }

/-- The fairness reset of every record (R259). -/
def resetPriorities (t : List (Addr × Loco)) : List (Addr × Loco) :=
  t.map fun e => (e.1, { e.2 with priority := minPriority })

/-- `OPS_PASS_END` (R259). -/
def opsPassEnd (P : Params) (s : State) : State :=
  let c := min (s.priorityCount + 1) P.maxPriority
  if c = P.maxPriority then
    { s with
      priorityCount := minPriority, locos := resetPriorities s.locos
      sched := { s.sched with phase := .opsSvc } }
  else { s with priorityCount := c, sched := { s.sched with phase := .opsSvc } }

/-- `OPS_SVC` (R260). -/
def opsSvc (s : State) : State :=
  if s.cvsvc ≠ [] then { s with sched := { s.sched with phase := .swToSvc } }
  else
    match s.cvpom with
    | e :: _ =>
      if e.sent then { s with sched := { s.sched with phase := .opsBidi } }
      else { s with sched := { s.sched with r := 0, phase := .opsPom } }
    | [] => { s with sched := { s.sched with phase := .opsBidi } }

/-- `OPS_POM` (R257), held where `FRONTQ` is full. -/
def opsPom (P : Params) (s : State) : State :=
  match s.cvpom with
  | [] => s
  | e :: rest =>
    if s.sched.r < P.pomRepeat then
      if 0 < frontFree P s then
        pushFront { bytes := pomPacket e } { s with sched := { s.sched with r := s.sched.r + 1 } }
      else s
    else { s with cvpom := { e with sent := true } :: rest, sched := { s.sched with phase := .opsBidi } }

/-- `OPS_BIDI` (R261): the datagrams of one entry are executed in order in this step. -/
def opsBidi (P : Params) (s : State) : Advance :=
  match s.feedbackq with
  | f :: rest => .run (feedbackInstrs P f) { s with feedbackq := rest, rxPkt := f.pkt }
  | [] =>
    match s.cvpom with
    | e :: rest =>
      if e.deadline ≤ s.now then .run [] (emitCvNack e.addr e.cvi { s with cvpom := rest })
      else .run [] { s with sched := { s.sched with phase := .opsStart } }
    | [] => .run [] { s with sched := { s.sched with phase := .opsStart } }

/-! ### Switch to service and back -/

/-- `SW_TO_SVC` and `SW_TO_OPS` (R262, R280): give up a mode, or abandon where the CAS fails. R47 says that SCHED reads `self_suspend`,
and no rule says what a read does: the model writes it where the rules do, and no step of it depends on the value (log 36). -/
def switchAway (m : Mode) (waitPhase : SchedPhase) (s : State) : State :=
  match cas (modeValue m) stSuspend s with
  | some s1 => { s1 with sched := { s1.sched with selfSuspend := true, phase := waitPhase } }
  | none => abandon s

/-- `SW_WAIT_SVC` and `SW_WAIT_OPS` (R263, R281), held until `STATE = Suspended`. -/
def switchInto (m : Mode) (next : SchedPhase) (s : State) : State :=
  if s.arbState = stSuspended then
    let s1 := enterMode m s
    { s1 with sched := { s1.sched with selfSuspend := false, phase := next } }
  else s

/-! ### Service loop -/

/-- `SVC_ENTRY` (R264), held until the driver has latched `ACT`. -/
def svcEntry (s : State) : State :=
  if s.dcc.mode = some .dccService ∧ s.dcc.phase ≠ .dIdle ∧ s.dcc.phase ≠ .dInit then
    { s with sched := { s.sched with r := 0, phase := .svcStartReset } }
  else s

/-- `SVC_STARTRESET` (R265), held where `BACKQ` is full. -/
def svcStartReset (P : Params) (s : State) : State :=
  match settingNat s.act .startupResetPacketCount with
  | none => schedFault s
  | some n =>
    if s.sched.r < n then
      if 0 < backFree P s then pushBack { bytes := resetPacket } { s with sched := { s.sched with r := s.sched.r + 1 } }
      else s
    else { s with sched := { s.sched with phase := .svcNext } }

/-- `SVC_NEXT` (R266). -/
def svcNext (s : State) : State :=
  match s.cvsvc with
  | [] => { s with sched := { s.sched with phase := .swToOps } }
  | e :: _ => { s with sched := { s.sched with req := some e, phase := .svcRun } }

/-- `start_attempt(pkt)` (R267). -/
def startAttempt (pkt : List Byte) (s : State) : State :=
  { s with ackbuf := none, sched := { s.sched with attPkt := some pkt, r := 0, phase := .attProg } }

/-- `SVC_RUN` (R267). -/
def svcRun (P : Params) (s : State) : State :=
  match s.sched.req with
  | none => s
  | some e =>
    match e.op with
    | .write => startAttempt (svcWriteByte e.cvi e.data) { s with sched := { s.sched with alg := some .write } }
    | .read =>
      match settingNat s.act .programmingType with
      | none => schedFault s
      | some ty =>
        if ty = 1 then
          startAttempt (svcVerifyByte e.cvi 0) { s with sched := { s.sched with alg := some .byte, v := 0 } }
        else
          startAttempt (svcVerifyBit e.cvi P.bitVerifyPol 0)
            { s with sched := { s.sched with alg := some .bit, i := 0, acks := 0 } }

/-- Go to `ATT_WAIT` (R272). -/
def attStartWait (s : State) : State :=
  { s with sched := { s.sched with waitDeadline := s.now + svcAckTimeoutUs, phase := .attWait } }

/-- What follows the last program packet of an attempt (R272). -/
def attProgDone (nc : Nat) (s : State) : State :=
  if 0 < nc then { s with sched := { s.sched with r := 0, phase := .attReset } } else attStartWait s

/-- `ATT_PROG` (R272), held where `BACKQ` is full. -/
def attProg (P : Params) (s : State) : State :=
  match settingNat s.act .programPacketCount, settingNat s.act .continueResetPacketCount, s.sched.attPkt with
  | some np, some nc, some pkt =>
    if s.sched.r < np then
      if 0 < backFree P s then
        let s1 :=
          pushBack
            { bytes := pkt, first := decide (s.sched.r = 0), last := decide (s.sched.r + 1 = np ∧ nc = 0) }
            { s with sched := { s.sched with r := s.sched.r + 1 } }
        if s.sched.r + 1 = np then attProgDone nc s1 else s1
      else s
    else attProgDone nc s
  | some _, some _, none => s
  | _, _, _ => schedFault s

/-- `ATT_RESET` (R272), held where `BACKQ` is full. -/
def attReset (P : Params) (s : State) : State :=
  match settingNat s.act .continueResetPacketCount with
  | none => schedFault s
  | some nc =>
    if s.sched.r < nc then
      if 0 < backFree P s then
        let s1 :=
          pushBack { bytes := resetPacket, last := decide (s.sched.r + 1 = nc) }
            { s with sched := { s.sched with r := s.sched.r + 1 } }
        if s.sched.r + 1 = nc then attStartWait s1 else s1
      else s
    else attStartWait s

/-- Finish a service request; `some x` is `ACK(x)`, none is `NACK` (R274). -/
def finishRequest (e : SvcReq) (result : Option Byte) (s : State) : State :=
  let s1 :=
    match result with
    | some x => emitCvAck 0 e.cvi x s
    | none => emitCvNack 0 e.cvi s
  { s1 with
    cvsvc := s1.cvsvc.drop 1
    sched := { s1.sched with req := none, alg := none, attPkt := none, phase := .svcNext } }

/-- The byte of eight bit-verify acks (R270). -/
def bitResult (P : Params) (acks : Byte) : Byte :=
  acks ^^^ (if P.bitVerifyPol then 0x00#8 else 0xFF#8)

/-- The next-step function of an algorithm for the ack bit `a`, none where it needs a setting with *no value* (R270, R275, R504). -/
def algorithmStep (P : Params) (e : SvcReq) (a : Bool) (s : State) : SvcAlg → Option State
  | .byte =>
    if a then some (finishRequest e (some (BitVec.ofNat 8 s.sched.v)) s)
    else if 255 ≤ s.sched.v then some (finishRequest e none s)
    else
      some (startAttempt (svcVerifyByte e.cvi (BitVec.ofNat 8 (s.sched.v + 1)))
        { s with sched := { s.sched with v := s.sched.v + 1 } })
  | .bit =>
    let acks := s.sched.acks ||| (if a then 1#8 <<< s.sched.i else 0)
    if s.sched.i < 7 then
      some (startAttempt (svcVerifyBit e.cvi P.bitVerifyPol (s.sched.i + 1))
        { s with sched := { s.sched with acks := acks, i := s.sched.i + 1 } })
    else
      let s1 := { s with sched := { s.sched with acks := acks, b := bitResult P acks } }
      match settingNat s.act .programmingType with
      | none => none
      | some ty =>
        if ty = 2 then some (finishRequest e (some (bitResult P acks)) s1)
        else
          some (startAttempt (svcVerifyByte e.cvi (bitResult P acks))
            { s1 with sched := { s1.sched with alg := some .confirm } })
  | .confirm => some (finishRequest e (if a then some s.sched.b else none) s)
  | .write => some (finishRequest e (if a then some e.data else none) s)

/-- `ATT_WAIT` (R273), held until an ack bit or the timeout. -/
def attWait (P : Params) (s : State) : State :=
  match s.sched.req, s.sched.alg with
  | some e, some alg =>
    match s.ackbuf with
    | some a =>
      (algorithmStep P e a { s with ackbuf := none, sched := { s.sched with attAck := a } } alg).getD (schedFault s)
    | none =>
      if s.sched.waitDeadline ≤ s.now then
        (algorithmStep P e false { s with sched := { s.sched with attAck := false } } alg).getD (schedFault s)
      else s
  | _, _ => s

/-! ### The step -/

/-- SCHED's step once its guard holds. -/
def schedAct (P : Params) (s : State) : Advance :=
  match s.sched.phase with
  | .idle => .run [] (schedIdle s)
  | .opsStart => .run [] (opsStart P s)
  | .opsIdleFill => .run [] (opsIdleFill P s)
  | .opsLoco =>
    match s.sched.it with
    | some a => .run [] (opsLoco P a s)
    | none => .run [] s
  | .opsPassEnd => .run [] (opsPassEnd P s)
  | .opsSvc => .run [] (opsSvc s)
  | .opsPom => .run [] (opsPom P s)
  | .opsBidi => opsBidi P s
  | .swToSvc => .run [] (switchAway .dccOperations .swWaitSvc s)
  | .swWaitSvc => .run [] (switchInto .dccService .svcEntry s)
  | .svcEntry => .run [] (svcEntry s)
  | .svcStartReset => .run [] (svcStartReset P s)
  | .svcNext => .run [] (svcNext s)
  | .svcRun => .run [] (svcRun P s)
  | .attProg => .run [] (attProg P s)
  | .attReset => .run [] (attReset P s)
  | .attWait => .run [] (attWait P s)
  | .swToOps => .run [] (switchAway .dccService .swWaitOps s)
  | .swWaitOps => .run [] (switchInto .dccOperations .opsStart s)

/-- SCHED's step (R253). -/
def schedStep (P : Params) (s : State) : Advance :=
  if schedGuard s then schedAct P s else .run [] (abandon s)

end Sys2Proof.Machine
end

