-- ==== Sys2Proof/Machine/Agents.lean ====
section
/-! DEFINITION. One move of the block: whose step is next, and the order of urgent steps at one instant (R9, R511). -/

namespace Sys2Proof.Machine

/-! ### Urgent steps (R510, R511) -/

/-- A class 1 step is enabled: a cutout alarm. -/
def class1Due (P : Params) (s : State) : Bool :=
  cutoutDue P s

/-- A class 2 step is enabled: a TX done. -/
def class2Due (s : State) : Bool :=
  dccTxDue s || decupTxDue s || mduTxDue s

/-- A class 4 step is enabled: a DECUP poll or an MDU evaluation. -/
def class4Due (P : Params) (s : State) : Bool :=
  decupPollDue P s || mduPollDue P s

/-- An urgent step of the block is enabled, so TIME may not advance (R9). -/
def urgentDue (P : Params) (s : State) : Bool :=
  class1Due P s || class2Due s || class4Due P s

/-- Class 2 steps come after class 1 ones (R511). -/
def class2May (P : Params) (s : State) : Bool :=
  !class1Due P s

/-- Environment inputs come after class 1 and class 2 and before class 4 steps of the instant (R511, log 12). -/
def class3May (P : Params) (s : State) : Bool :=
  !class1Due P s && !class2Due s && !s.polled

/-- Class 4 steps come after class 1 and class 2 ones (R511). -/
def class4May (P : Params) (s : State) : Bool :=
  !class1Due P s && !class2Due s

/-! ### The moves -/

/-- DCCDRV's move. -/
def dccMove (P : Params) (hwOk : Bool) (s : State) : Advance :=
  if dccTxDue s && !class2May P s then .run [] s else dccStep P hwOk s

/-- DECUPDRV's move: `U_TX` is of class 2, the polls are of class 4, the other phases are not urgent. -/
def decupMove (P : Params) (hwOk : Bool) (s : State) : State :=
  match s.decup.phase with
  | .uTx => if decupTxDue s && class2May P s then decupAct P hwOk s else s
  | .uWin1 | .uWin2 | .uSettle =>
    if decupPollDue P s && class4May P s then { decupAct P hwOk s with polled := true } else s
  | .uIdle | .uInit | .uCheck | .uWaitPkt | .uTeardown => decupAct P hwOk s

/-- MDUDRV's move: `M_TX` is of class 2, `M_EVAL` of class 4, the other phases are not urgent. -/
def mduMove (P : Params) (hwOk : Bool) (s : State) : State :=
  match s.mdu.phase with
  | .mTx => if mduTxDue s && class2May P s then mduAct P hwOk s else s
  | .mEval => if mduPollDue P s && class4May P s then { mduAct P hwOk s with polled := true } else s
  | .mIdle | .mInit | .mCheck | .mWaitPkt | .mTeardown => mduAct P hwOk s

/-- TIME's move: `now <- now + 1` where no urgent step is enabled (R9, R46). -/
def timeMove (P : Params) (s : State) : Advance :=
  if urgentDue P s then .run [] s
  else if s.now + 1 < 2 ^ 64 then .run [] { s with now := s.now + 1, polled := false }
  else .refused .timeBaseExhausted

/-- An environment input of class 3, which at this point of the instant may not come (log 12) or does. -/
def envMove (P : Params) (f : State → State) (s : State) : State :=
  if class3May P s then f s else s

/-- One move. A move that is not enabled leaves the state as it is (log 2). -/
def moveStep (P : Params) (m : Move) (s : State) : Advance :=
  match m with
  | .host => hostStep P s
  | .sched => schedStep P s
  | .dccdrv hwOk => dccMove P hwOk s
  | .cutout => .run [] (cutoutStep P s)
  | .decupdrv hwOk => .run [] (decupMove P hwOk s)
  | .mdudrv hwOk => .run [] (mduMove P hwOk s)
  | .time => timeMove P s
  | .uart b => .run [] (envMove P (uartStep P b) s)
  | .edge => .run [] (envMove P (fun t => mduCapture P (decupEdge t)) s)
  | .sample x => .run [] (envMove P (sampleStep x) s)
  | .replyDecup => .run [] (replyDecupStep s)
  | .replyMdu => .run [] (replyMduStep s)
  | .analog => issuerStep .analog s.analogPort s
  | .ext => issuerStep .ext s.extPort s
  | .deliver who ws => .run [] (deliverStep who ws s)

/-- The next move, and the state after it is chosen: the head of the agenda, or a free one (log 1). -/
def nextMove (P : Params) (s : State) : Move × State :=
  match s.agenda with
  | m :: rest => (m, { s with agenda := rest })
  | [] => (P.freeMove s.freeMoves, { s with freeMoves := s.freeMoves + 1 })

/-- What the block does next in a state without a fault: an output word that was placed is delivered (log 6), else the next move
is taken. -/
def advance (P : Params) (s : State) : Advance :=
  match s.outLatch with
  | some c =>
    match decode c with
    | .ok i => .run [i] { s with outLatch := none }
    | .error _ => .run [] { s with outLatch := none }
  | none => moveStep P (nextMove P s).1 (nextMove P s).2

end Sys2Proof.Machine
end

