-- ==== Sys2Proof/Machine/Arbiter.lean ====
section
/-! DEFINITION. The arbitration commands (R200 to R207). Each is one atomic step of its issuer; while an enabling condition does not
hold, the issuer is held and the state stays as it is (log 2). -/

namespace Sys2Proof.Machine

/-- The enabling condition of `ACQUIRE m` once `STATE = Suspended` (R201 (b)). -/
def acquireReady (m : Mode) (s : State) : Bool :=
  driverQuiet s (driverOf m) && (driverOf m != .dcc || schedWaits s)

/-- `ACQUIRE m` (R201). -/
def execAcquire (mode : BitVec 8) (s : State) : Res :=
  match Mode.ofId mode with
  | none => answer statusBadOperand s
  | some m =>
    if s.arbState = stSuspended then
      if acquireReady m s then answerState statusOk (enterMode m s) else .next s
    else answerState statusCasLost s

/-- `SUSPEND a`, 0xFF for any mode (R202). -/
def execSuspend (mode : BitVec 8) (s : State) : Res :=
  if mode = 0xFF#8 then
    match modeOfState s.arbState with
    | some _ => answerState statusOk (emitPowerOff { s with arbState := stSuspend })
    | none => answerState statusOk s
  else
    match Mode.ofId mode with
    | none => answer statusBadOperand s
    | some m =>
      match cas (modeValue m) stSuspend s with
      | some s1 => answerState statusOk (emitPowerOff s1)
      | none => answerState statusCasLost s

/-- `RELEASE a` (R207). -/
def execRelease (mode : BitVec 8) (s : State) : Res :=
  match externalMode mode with
  | none => answer statusBadOperand s
  | some m =>
    if s.arbState = modeValue m ∨ (s.arbState = stSuspend ∧ allQuiet s = true) then
      answerState statusOk { s with arbState := stSuspended }
    else answerState statusCasLost s

/-- `SHORT` (R204). -/
def execShort (s : State) : Res :=
  if s.arbState = stShort then answerState statusOk s
  else answerState statusOk (emitPowerOff { s with arbState := stShort })

/-- `POWER_ON` (R205). -/
def execPowerOn (s : State) : Res :=
  if s.arbState = stShort ∨ s.arbState = stSuspended then
    if allQuiet s && schedWaits s then answerState statusOk (enterMode .dccOperations s) else .next s
  else if s.arbState = modeValue .dccOperations then answerState statusOk s
  else answerState statusCasLost s

end Sys2Proof.Machine
end

