-- ==== Sys2Proof/Machine/Cv.lean ====
section
/-! DEFINITION. The CV commands (R243 to R246). -/

namespace Sys2Proof.Machine

/-- Admission and queueing of a service-mode CV request (R243). -/
def queueSvc (P : Params) (e : SvcReq) (s : State) : Res :=
  if inDccMode s then
    if s.cvsvc.length < P.cvDequeCap then answer statusOk { s with cvsvc := s.cvsvc ++ [e] } else answer statusFull s
  else answer statusNotOwner s

/-- A POM request, due `POM_DEADLINE_US` from now and not yet sent (R33). -/
def pomRequest (op : CvOp) (a : Addr) (k : Cvi) (d : Byte) (s : State) : PomReq where
  op := op
  addr := a
  cvi := k
  data := d
  deadline := s.now + pomDeadlineUs
  sent := false

/-- Push to the back of `CVPOM`. -/
def pushPom (e : PomReq) (s : State) : State :=
  { s with cvpom := s.cvpom ++ [e] }

/-- `CV_READ` (R243). R32 gives the entry of a read a data byte without a meaning and R243 pushes none: that it is 0 is the model's
choice (log 33). -/
def execCvRead (cvi : Cvi) (s : State) (P : Params := Config.params) : Res :=
  hostOnly s <| queueSvc P { op := .read, cvi := cvi, data := 0 } s

/-- `CV_WRITE` (R244). -/
def execCvWrite (cvi : Cvi) (data : Byte) (s : State) (P : Params := Config.params) : Res :=
  hostOnly s <| queueSvc P { op := .write, cvi := cvi, data := data } s

/-- `CV_POM_READ` (R245). -/
def execCvPomRead (addr : Addr) (cvi : Cvi) (s : State) (P : Params := Config.params) : Res :=
  hostOnly s <|
    if addrLegal addr then
      if inDccMode s then
        if s.cvpom.length < P.cvDequeCap then
          match getOrCreate P addr s with
          | none => answer statusFull s
          | some (_, s1) => answer statusOk (pushPom (pomRequest .read addr cvi 0 s) s1)
        else answer statusFull s
      else answer statusNotOwner s
    else answer statusBadOperand s

/-- `CV_POM_WRITE` (R246). -/
def execCvPomWrite (addr : Addr) (cvi : Cvi) (data : Byte) (s : State) (P : Params := Config.params) : Res :=
  hostOnly s <|
    if addrLegal addr then
      if inDccMode s then
        if s.cvpom.length < P.cvDequeCap then answer statusOk (pushPom (pomRequest .write addr cvi data s) s)
        else answer statusFull s
      else answer statusNotOwner s
    else answer statusBadOperand s

end Sys2Proof.Machine
end

