-- ==== Sys2Proof/Machine/Loco.lean ====
section
/-! DEFINITION. The loco commands (R235 to R242). -/

namespace Sys2Proof.Machine

/-- Store a changed record with its events, `PERSIST` before `LOCO_INFO_EV` (R235, R628). -/
def storeLoco (a : Addr) (l : Loco) (s : State) : State :=
  emitLocoInfo a (emitPersist a l (setLoco a l s))

/-- In `DCCOperations` leave a packet for `FRONTQ`, else answer `OK` at once (R235). -/
def injectPacket (pkt : List Byte) (s : State) : Res :=
  if s.arbState = modeValue .dccOperations then .next (leavePacket .frontq pkt s) else answer statusOk s

/-- `LOCO_DRIVE` (R235). -/
def execLocoDrive (addr : Addr) (steps : BitVec 3) (rv : Byte) (s : State) (P : Params := Config.params) : Res :=
  hostOnly s <|
    if addrLegal addr && speedLegal steps rv then
      match getOrCreate P addr s with
      | none => answer statusFull s
      | some (l, s1) =>
        let l' := { l with speedSteps := steps, rvvvvvvv := rv }
        injectPacket (speedPacket addr l') (storeLoco addr l' s1)
    else answer statusBadOperand s

/-- `LOCO_FUNCTION` (R236). -/
def execLocoFunction (addr : Addr) (fn : BitVec 5) (on : Bool) (s : State) (P : Params := Config.params) : Res :=
  hostOnly s <|
    if addrLegal addr then
      match getOrCreate P addr s with
      | none => answer statusFull s
      | some (l, s1) =>
        let l' := { l with f31_0 := setFunction l.f31_0 fn on }
        injectPacket (fgPacket addr l' (groupOf fn)) (storeLoco addr l' s1)
    else answer statusBadOperand s

/-- `LOCO_MODE` (R237). -/
def execLocoMode (addr : Addr) (steps : BitVec 3) (s : State) : Res :=
  hostOnly s <|
    if addrLegal addr && stepsLegal steps then
      match locoGet addr s.locos with
      | none => answer statusNoLoco s
      | some l =>
        let l' := { l with speedSteps := steps, rvvvvvvv := stopKeepingDirection l.rvvvvvvv }
        injectPacket (speedPacket addr l') (storeLoco addr l' s)
    else answer statusBadOperand s

/-- `LOCO_INFO` (R238). -/
def execLocoInfo (addr : Addr) (s : State) : Res :=
  hostOnly s <|
    if addrLegal addr then
      match locoGet addr s.locos with
      | none => answer statusNoLoco s
      | some l => .next (respond statusOk (locoInfoValue l) s)
    else answer statusBadOperand s

/-- `LOCO_RAILCOM` (R239). -/
def execLocoRailcom (addr : Addr) (s : State) : Res :=
  hostOnly s <|
    if addrLegal addr then
      match locoGet addr s.locos with
      | none => answer statusNoLoco s
      | some l => .next (respond statusOk (locoRailcomValue l) s)
    else answer statusBadOperand s

/-- `LOCO_ERASE` (R240). -/
def execLocoErase (addr : Addr) (s : State) : Res :=
  hostOnly s <|
    if addrLegal addr then
      answer statusOk (emitErase addr { s with locos := locoErase addr s.locos })
    else answer statusBadOperand s

/-- `LOCO_ERASE_ALL` (R242). -/
def execLocoEraseAll (s : State) : Res :=
  hostOnly s <| answer statusOk (emitEraseAll { s with locos := [] })

end Sys2Proof.Machine
end

