-- ==== Sys2Proof/Machine/Ports.lean ====
section
/-! DEFINITION. The output words: a response goes to its issuer's port (R116, R200), an event to the event port (R117), log 6. -/

namespace Sys2Proof.Machine

/-- RESPONSE (R116). -/
def execResponse (status : Byte) (value : BitVec 56) (s : State) : Res :=
  .next (putResponse status value s)

/-- EVENT (R117). -/
def execEvent (ev : Byte) (addr : Addr) (cvi : Cvi) (data : Byte) (ext : Option (BitVec 56)) (s : State) : Res :=
  .next (putEvent ev addr cvi data ext s)

end Sys2Proof.Machine
end

