-- ==== Sys2Proof/Machine/Raw.lean ====
section
/-! DEFINITION. The raw packet commands (R247, R248, R400, R430) and the CSR commands (R249, R250, R119). -/

namespace Sys2Proof.Machine

/-- Check, admission and hand-over of a raw packet: `pend <- {q, p}` (R247, R400, R430). -/
def sendRaw (operandOk admitted : Bool) (t : Target) (bytes : List Byte) (s : State) : Res :=
  if operandOk then
    if admitted then .next (leavePacket t bytes s) else answer statusNotOwner s
  else answer statusBadOperand s

/-- `SEND_FRONT` (R247). -/
def execSendFront (bytes : List Byte) (s : State) : Res :=
  hostOnly s <| sendRaw (dccPayloadOk bytes) (inDccMode s) .frontq bytes s

/-- `SEND_BACK` (R248). -/
def execSendBack (bytes : List Byte) (s : State) : Res :=
  hostOnly s <| sendRaw (dccPayloadOk bytes) (inDccMode s) .backq bytes s

/-- `DECUP_TX` (R400). -/
def execDecupTx (bytes : List Byte) (s : State) (P : Params := Config.params) : Res :=
  hostOnly s <| sendRaw (decupPayloadOk P bytes) (inDecupMode s) .decupInq bytes s

/-- `MDU_TX` (R430). -/
def execMduTx (bytes : List Byte) (s : State) (P : Params := Config.params) : Res :=
  hostOnly s <| sendRaw (mduPayloadOk P bytes) (inMduMode s) .mduInq bytes s

/-- `CFG_WRITE` (R249, R119 (a), (b)). -/
def execCfgWrite (index : BitVec 8) (data : Byte) (s : State) : Res :=
  hostOnly s <|
    match settingOfIndex index with
    | none => answer statusBadOperand s
    | some x =>
      if settingLegal data x then answer statusOk { s with cfg := setSetting s.cfg data x }
      else answer statusBadOperand s

/-- `CFG_READ` (R250, R119 (c), (d)). -/
def execCfgRead (index : BitVec 8) (s : State) (P : Params := Config.params) : Res :=
  hostOnly s <|
    match settingOfIndex index with
    | some x =>
      match getSetting s.cfg x with
      | some d => .next (respond statusOk (d.setWidth 56) s)
      | none => answer statusUninit s
    | none =>
      match readOnlyCsr P s index with
      | some v => .next (respond statusOk (v.setWidth 56) s)
      | none => answer statusBadOperand s

end Sys2Proof.Machine
end

