-- ==== Sys2Proof/Machine/Dispatch.lean ====
section
/-! DEFINITION. The meaning of every instruction: one arm per constructor. -/

namespace Sys2Proof.Machine

def exec (i : Instr) (s : State) : Host.Outcome State Fault Refusal :=
  match i with
  | .acquire mode => Sys2Proof.Machine.execAcquire mode s
  | .suspend mode => Sys2Proof.Machine.execSuspend mode s
  | .release mode => Sys2Proof.Machine.execRelease mode s
  | .short => Sys2Proof.Machine.execShort s
  | .powerOn => Sys2Proof.Machine.execPowerOn s
  | .locoDrive addr steps rv => Sys2Proof.Machine.execLocoDrive addr steps rv s
  | .locoFunction addr fn on => Sys2Proof.Machine.execLocoFunction addr fn on s
  | .locoMode addr steps => Sys2Proof.Machine.execLocoMode addr steps s
  | .locoInfo addr => Sys2Proof.Machine.execLocoInfo addr s
  | .locoRailcom addr => Sys2Proof.Machine.execLocoRailcom addr s
  | .locoErase addr => Sys2Proof.Machine.execLocoErase addr s
  | .locoEraseAll => Sys2Proof.Machine.execLocoEraseAll s
  | .cvRead cvi => Sys2Proof.Machine.execCvRead cvi s
  | .cvWrite cvi data => Sys2Proof.Machine.execCvWrite cvi data s
  | .cvPomRead addr cvi => Sys2Proof.Machine.execCvPomRead addr cvi s
  | .cvPomWrite addr cvi data => Sys2Proof.Machine.execCvPomWrite addr cvi data s
  | .sendFront bytes => Sys2Proof.Machine.execSendFront bytes s
  | .sendBack bytes => Sys2Proof.Machine.execSendBack bytes s
  | .decupTx bytes => Sys2Proof.Machine.execDecupTx bytes s
  | .mduTx bytes => Sys2Proof.Machine.execMduTx bytes s
  | .cfgWrite index data => Sys2Proof.Machine.execCfgWrite index data s
  | .cfgRead index => Sys2Proof.Machine.execCfgRead index s
  | .dccIdle => Sys2Proof.Machine.execDccIdle s
  | .dccReset => Sys2Proof.Machine.execDccReset s
  | .dccSpeed14 addr dir f0 speed x => Sys2Proof.Machine.execDccSpeed14 addr dir f0 speed x s
  | .dccSpeed28 addr dir code x => Sys2Proof.Machine.execDccSpeed28 addr dir code x s
  | .dccSpeed128 addr dir speed x => Sys2Proof.Machine.execDccSpeed128 addr dir speed x s
  | .dccFg1 addr f x => Sys2Proof.Machine.execDccFg1 addr f x s
  | .dccFg2a addr f x => Sys2Proof.Machine.execDccFg2a addr f x s
  | .dccFg2b addr f x => Sys2Proof.Machine.execDccFg2b addr f x s
  | .dccFg3 addr f x => Sys2Proof.Machine.execDccFg3 addr f x s
  | .dccFg4 addr f x => Sys2Proof.Machine.execDccFg4 addr f x s
  | .dccFg5 addr f x => Sys2Proof.Machine.execDccFg5 addr f x s
  | .dccPomRead addr cvi x => Sys2Proof.Machine.execDccPomRead addr cvi x s
  | .dccPomWrite addr cvi data x => Sys2Proof.Machine.execDccPomWrite addr cvi data x s
  | .dccSvcVerifyByte cvi data x => Sys2Proof.Machine.execDccSvcVerifyByte cvi data x s
  | .dccSvcWriteByte cvi data x => Sys2Proof.Machine.execDccSvcWriteByte cvi data x s
  | .dccSvcVerifyBit cvi bit pos x => Sys2Proof.Machine.execDccSvcVerifyBit cvi bit pos x s
  | .bidiAppPom value => Sys2Proof.Machine.execBidiAppPom value s
  | .bidiAppDyn dv subindex => Sys2Proof.Machine.execBidiAppDyn dv subindex s
  | .response status value => Sys2Proof.Machine.execResponse status value s
  | .event ev addr cvi data ext => Sys2Proof.Machine.execEvent ev addr cvi data ext s

end Sys2Proof.Machine
end

