-- ==== Sys2Proof/Machine/Step.lean ====
section
/-! DEFINITION. One step of the block: one move, with the instructions it runs, and the placing of an instruction where the next
step runs it (log 4). -/

namespace Sys2Proof.Machine

/-- Run instructions in order within one step. -/
def runInstrs : List Instr → State → Host.Outcome State Fault Refusal
  | [], s => .next s
  | i :: rest, s =>
    match exec i s with
    | .next s' => runInstrs rest s'
    | .fault r => .fault r
    | .refused r => .refused r

/-- One step. While `FATAL` is set no agent has a step (R504 (b)). -/
def step (s : State) : Host.Outcome State Fault Refusal :=
  match s.fatal with
  | some r => .fault (.fatal r)
  | none =>
    match advance Config.params s with
    | .run is s' => runInstrs is s'
    | .refused r => .refused r

/-! ### Placing an instruction -/

/-- A value for every setting the transmission of a packet reads (R311): 1 where there is none. -/
def timingFilled (c : Settings) : Settings :=
  { c with
    bit1Duration := some (c.bit1Duration.getD 1)
    bit0Duration := some (c.bit0Duration.getD 1)
    preamble := some (c.preamble.getD 1)
    bidiBitDuration := some (c.bidiBitDuration.getD 1) }

/-- The loco table in which the bytes of a packet are read in a context: the addressed loco runs with 14 steps or it does not. -/
def locosForContext (ctx : PacketCtx) (bytes : List Byte) (t : List (Addr × Loco)) : List (Addr × Loco) :=
  match dccAddress bytes with
  | none => t
  | some a =>
    match locoGet a t with
    | some l =>
      if decide (l.speedSteps = 0) = ctx.steps14 then t
      else locoPut a { l with speedSteps := if ctx.steps14 then 0 else 4 } t
    | none => if ctx.steps14 then locoPut a { locoDefault with speedSteps := 0 } t else t

/-- Place a command where HOST executes it next. -/
def placeCommand (w : Word) (rest : List Word) (s : State) : State :=
  { s with
    host :=
      { s.host with
        phase := .hExec
        cmd := some { word := w, payload := unpackPayload rest (CmdFields.ofWord w).len.toNat } }
    agenda := .host :: s.agenda }

/-- Place a packet where DCCDRV selects it next. -/
def placePacket (ctx : PacketCtx) (bytes : List Byte) (s : State) : State :=
  { s with
    dcc := { s.dcc with phase := .dSelect, mode := some (if ctx.service then .dccService else .dccOperations) }
    act := timingFilled s.act
    locos := locosForContext ctx bytes s.locos
    frontq := { bytes := bytes } :: s.frontq
    agenda := .dccdrv true :: s.agenda }

/-- Place the symbols of a datagram where SCHED decodes them next. -/
def placeDatagram (syms : List (BitVec 6)) (s : State) : State :=
  { s with
    arbState := modeValue .dccOperations
    sched := { s.sched with phase := .opsBidi }
    feedbackq :=
      { pkt := s.rxPkt, dg := datagramBuffer 2 (syms.map Config.bidiEncode), n1 := 0, n2 := syms.length } :: s.feedbackq
    agenda := .sched :: s.agenda }

/-- Place an instruction's words where the next step runs it. -/
def placeCode (c : Code) (s : State) : State :=
  let s0 := { s with fatal := none, outLatch := none }
  match c with
  | .command [] => s0
  | .command (w :: rest) => placeCommand w rest s0
  | .packet ctx bytes => placePacket ctx bytes s0
  | .datagram syms => placeDatagram syms s0
  | .response w => { s0 with outLatch := some (.response w) }
  | .event ws => { s0 with outLatch := some (.event ws) }

/-- The state in which the next step runs the instruction that the table writes as `w`. -/
def State.withFetchWord (s : State) (nbits w : Nat) : State :=
  placeCode (tableCode nbits w) s

end Sys2Proof.Machine
end

