-- ==== Sys2Proof/WellFormed.lean ====
section
/-! DEFINITION. Well-formed instructions: those the spec's formats can write. A command field out of its range is still
well-formed (it answers `BAD_OPERAND`, R122 (c)); a payload too long for `LEN`, an address no packet can carry, a wrong checksum,
a status or an event that has no code are not. -/

namespace Sys2Proof

/-- The addresses a packet can carry: broadcast and 1..10239 (R131). -/
def packetAddrOk (a : Addr) : Bool :=
  a.toNat ≤ 10239

/-- The address and the checksum of an addressed packet row (R130, R132). -/
def addressedOk (a : Addr) (i : Instr) (x : Byte) : Bool :=
  packetAddrOk a && x == xorAll ((packetBody i).getD [])

/-- The checksum of a service packet row (R132, R141). -/
def serviceOk (i : Instr) (x : Byte) : Bool :=
  x == xorAll ((packetBody i).getD [])

/-- The payload of a command is counted by the 8-bit `LEN` (R113, R115). -/
def payloadOk (bytes : List Byte) : Bool :=
  bytes.length ≤ 255

/-- The 28-step codes of R135: 1 and 3 stand for no speed. -/
def speedCodeOk (code : BitVec 5) : Bool :=
  code != 1#5 && code != 3#5

/-- The words of R117: codes 1 to 11, and a second word exactly for `PERSIST`. -/
def eventOk (ev : Byte) (ext : Option (BitVec 56)) : Bool :=
  1 ≤ ev.toNat && ev.toNat ≤ 11 && (ev == 9#8) == ext.isSome

/-- Which instructions the formats of the spec can write. -/
def WellFormed (i : Instr) : Bool :=
  match i with
  | .acquire _ | .suspend _ | .release _ | .short | .powerOn => true
  | .locoDrive .. | .locoFunction .. | .locoMode .. | .locoInfo _ | .locoRailcom _ | .locoErase _ | .locoEraseAll => true
  | .cvRead _ | .cvWrite .. | .cvPomRead .. | .cvPomWrite .. => true
  | .sendFront p => payloadOk p
  | .sendBack p => payloadOk p
  | .decupTx p => payloadOk p
  | .mduTx p => payloadOk p
  | .cfgWrite .. | .cfgRead _ => true
  | .dccIdle | .dccReset => true
  | .dccSpeed14 a _ _ _ x => addressedOk a i x
  | .dccSpeed28 a _ c x => addressedOk a i x && speedCodeOk c
  | .dccSpeed128 a _ _ x => addressedOk a i x
  | .dccFg1 a _ x => addressedOk a i x
  | .dccFg2a a _ x => addressedOk a i x
  | .dccFg2b a _ x => addressedOk a i x
  | .dccFg3 a _ x => addressedOk a i x
  | .dccFg4 a _ x => addressedOk a i x
  | .dccFg5 a _ x => addressedOk a i x
  | .dccPomRead a _ x => addressedOk a i x
  | .dccPomWrite a _ _ x => addressedOk a i x
  | .dccSvcVerifyByte _ _ x => serviceOk i x
  | .dccSvcWriteByte _ _ x => serviceOk i x
  | .dccSvcVerifyBit _ _ _ x => serviceOk i x
  | .bidiAppPom _ | .bidiAppDyn .. => true
  | .response st _ => st.toNat ≤ 7
  | .event ev _ _ _ ext => eventOk ev ext

end Sys2Proof
end

