-- ==== Sys2Proof/Safety.lean ====
section
/-! DEFINITION. What claims are stated in: the legal states of each part of the block, and the steps a run takes. Every predicate is
about all states, reached or not. -/

namespace Sys2Proof.Machine

/-! ### Arbitration (R211) -/

/-- What arbitration sees of a driver. -/
structure DriverView where
  idle : Bool
  resume : Bool
  mode : Option Mode
  deriving DecidableEq, Repr

/-- A driver that runs or has been resumed. -/
def DriverView.engaged (x : DriverView) : Bool :=
  !x.idle || x.resume

/-- `STATE` and what arbitration sees of the three drivers; `dccLeaves` says that DCCDRV is in its teardown phase. -/
structure ArbView where
  value : BitVec 16
  dcc : DriverView
  decup : DriverView
  mdu : DriverView
  dccLeaves : Bool
  deriving DecidableEq, Repr

/-- The part of a state that arbitration is about. -/
def arbView (s : State) : ArbView where
  value := s.arbState
  dcc := { idle := decide (s.dcc.phase = .dIdle), resume := s.dcc.resume, mode := s.dcc.mode }
  decup := { idle := decide (s.decup.phase = .uIdle), resume := s.decup.resume, mode := s.decup.mode }
  mdu := { idle := decide (s.mdu.phase = .mIdle), resume := s.mdu.resume, mode := s.mdu.mode }
  dccLeaves := decide (s.dcc.phase = .dTeardown)

/-- `STATE` holds a mode that the driver owns (R111). -/
def stateOwnedBy (d : Driver) (v : BitVec 16) : Bool :=
  match modeOfState v with
  | some m => decide (driverOf m = d)
  | none => false

/-- What `STATE` may hold while a driver is engaged: `Suspend`, `ShortCircuit`, or the mode it was resumed for and runs in
(R211 (c)). -/
def engagedState (d : Driver) (x : DriverView) (v : BitVec 16) : Bool :=
  v == stSuspend || v == stShort || (stateOwnedBy d v && (x.idle || x.mode == modeOfState v))

/-- The invariant of one driver: engaged only as `engagedState` says; while it runs it is not resumed again and its mode is one of
its own; and it is engaged while `STATE` holds one of its modes. -/
def driverInv (d : Driver) (x : DriverView) (v : BitVec 16) : Bool :=
  (!x.engaged || engagedState d x v) &&
  (x.idle || (!x.resume && (x.mode.map driverOf == some d))) &&
  (!stateOwnedBy d v || x.engaged)

/-- DCCDRV has no session timeout: it tears down only after `Suspend` or `ShortCircuit` (R203, R208). -/
def leaveInv (w : ArbView) : Bool :=
  !w.dccLeaves || (!w.dcc.idle && (w.value == stSuspend || w.value == stShort))

/-- The invariant of the arbitration: `STATE` is legal, each driver is as `driverInv` says, DCCDRV leaves as `leaveInv` says, and
at most one driver is engaged. -/
def arbViewInv (w : ArbView) : Bool :=
  leaveInv w && stateLegal w.value &&
  driverInv .dcc w.dcc w.value && driverInv .decup w.decup w.value && driverInv .mdu w.mdu w.value &&
  !(w.dcc.engaged && w.decup.engaged) && !(w.dcc.engaged && w.mdu.engaged) && !(w.decup.engaged && w.mdu.engaged)

/-- The arbitration invariant of a state. -/
def ArbInv (s : State) : Prop :=
  arbViewInv (arbView s) = true

/-- The rows of the transition table of `STATE` (R210), and no change. -/
def arbTransition (v w : BitVec 16) : Bool :=
  v == w ||
  (v == stSuspended && (modeOfState w).isSome) ||
  ((modeOfState v).isSome && w == stSuspend) ||
  w == stShort ||
  (v == stShort && w == modeValue .dccOperations) ||
  (v == stSuspend && w == stSuspended) ||
  ((stateOwnedBy .decup v || stateOwnedBy .mdu v || stateOwnedBy .ext v) && w == stSuspended)

/-! ### The loco table (R23, R24, R25) -/

/-- A legal entry of the loco table (R23, R24). -/
def locoEntryOk (P : Params) (e : Addr × Loco) : Bool :=
  addrLegal e.1 && speedLegal e.2.speedSteps e.2.rvvvvvvv &&
  decide (minPriority ≤ e.2.priority) && decide (e.2.priority ≤ P.maxPriority) &&
  decide (e.2.rcSpeed.toNat ≤ 511) && decide (e.2.rcOptions.toNat ≤ 7)

/-- The loco table is in its canonical form, within its capacity, with legal entries, and `PRIORITY_COUNT` is in its range. -/
structure LocoInv (P : Params) (s : State) : Prop where
  canonical : locosWf s.locos
  capacity : s.locos.length ≤ P.locoMax
  entries : ∀ e ∈ s.locos, locoEntryOk P e = true
  count : minPriority ≤ s.priorityCount ∧ s.priorityCount ≤ P.maxPriority

/-! ### Packets and queues (R30 to R36) -/

/-- A packet the DCC queues may hold: 3 to 6 bytes whose XOR is 0 (R30, R132). -/
def packetOk (bs : List Byte) : Bool :=
  dccPayloadOk bs

/-- Whether a target is one of the two DCC queues. -/
def dccTarget : Target → Bool
  | .frontq | .backq => true
  | .decupInq | .mduInq => false

/-- Every DCC packet that is queued, waits to be pushed, is being sent or is repeated by an attempt is a legal one. -/
structure PacketInv (s : State) : Prop where
  front : ∀ p ∈ s.frontq, packetOk p.bytes = true
  back : ∀ p ∈ s.backq, packetOk p.bytes = true
  pending : ∀ p, s.host.pend = some p → dccTarget p.target = true → packetOk p.bytes = true
  current : ∀ p, s.dcc.cur = some p → packetOk p.bytes = true
  attempt : ∀ bs, s.sched.attPkt = some bs → packetOk bs = true

/-- No queue is longer than its capacity (R30 to R36). -/
structure QueueInv (P : Params) (s : State) : Prop where
  front : s.frontq.length ≤ P.frontCap
  back : s.backq.length ≤ P.backCap
  feedback : s.feedbackq.length ≤ P.feedbackCap
  cvsvc : s.cvsvc.length ≤ P.cvDequeCap
  cvpom : s.cvpom.length ≤ P.cvDequeCap
  decupIn : s.decupInq.length ≤ P.decupInCap
  mduIn : s.mduInq.length ≤ P.mduInCap
  decupReply : s.decupReply.length ≤ P.replyCap
  mduReply : s.mduReply.length ≤ P.replyCap
  uart : s.uartFifo.length ≤ P.uartFifoSize

/-! ### Detectors (R40, R413, R434, R466) -/

/-- The window of the service ACK detector and what is derived from it (R40, R461, R466). -/
structure AckInv (s : State) : Prop where
  window : s.svcack.win.length ≤ ackWindow
  sum : s.svcack.sum = windowSum s.svcack.win
  zeros : s.svcack.zeros = windowZeros s.svcack.win

/-- The counters and codes of the DECUP and MDU detectors (R41, R413, R434). -/
structure CodeInv (s : State) : Prop where
  edges : s.decup.edges ≤ 255
  raw : s.decup.raw ≤ 2
  decupCodes : ∀ c ∈ s.decupReply, c.toNat ≤ 2
  mduCodes : ∀ c ∈ s.mduReply, c.toNat ≤ 2

/-! ### Commands -/

/-- The arbitration commands, opcodes 0x01..0x05 (R114, R231). -/
def isArbitration (i : Instr) : Bool :=
  match i with
  | .acquire _ | .suspend _ | .release _ | .short | .powerOn => true
  | .locoDrive .. | .locoFunction .. | .locoMode .. | .locoInfo _ | .locoRailcom _ | .locoErase _ | .locoEraseAll | .cvRead _
  | .cvWrite .. | .cvPomRead .. | .cvPomWrite .. | .sendFront _ | .sendBack _ | .decupTx _ | .mduTx _ | .cfgWrite ..
  | .cfgRead _ | .dccIdle | .dccReset | .dccSpeed14 .. | .dccSpeed28 .. | .dccSpeed128 .. | .dccFg1 .. | .dccFg2a ..
  | .dccFg2b .. | .dccFg3 .. | .dccFg4 .. | .dccFg5 .. | .dccPomRead .. | .dccPomWrite .. | .dccSvcVerifyByte ..
  | .dccSvcWriteByte .. | .dccSvcVerifyBit .. | .bidiAppPom _ | .bidiAppDyn .. | .response .. | .event .. => false

/-- The commands whose rule may write the loco table (R23). -/
def mayWriteLocos : Instr → Bool
  | .locoDrive .. | .locoFunction .. | .locoMode .. | .locoErase _ | .locoEraseAll | .cvPomRead .. => true
  | _ => false

/-- The commands whose rule may emit an event. -/
def mayEmit : Instr → Bool
  | .suspend _ | .short | .locoDrive .. | .locoFunction .. | .locoMode .. | .locoErase _ | .locoEraseAll => true
  | _ => false

/-- The commands that queue a service-mode request. -/
def mayQueueSvc : Instr → Bool
  | .cvRead _ | .cvWrite .. => true
  | _ => false

/-- The commands that queue a POM request. -/
def mayQueuePom : Instr → Bool
  | .cvPomRead .. | .cvPomWrite .. => true
  | _ => false

/-- The record at an address, or the one a creation makes (R230). -/
def locoRecord (P : Params) (a : Addr) (s : State) : Loco :=
  (locoGet a s.locos).getD (locoCreated (P.nvGet s.lookups a))

/-- The state after a record was looked up for a change: the store was asked where the loco was not there (R230, log 14). -/
def lookedUp (a : Addr) (s : State) : State :=
  { s with lookups := if (locoGet a s.locos).isSome then s.lookups else s.lookups + 1 }

/-- The values of a record at its creation: the persisted fields as the store gives them, else the defaults; `priority` is `MINP` and
the RailCom fields are 0 (R24, R230). -/
structure CreatedLoco (answer : Option NvRecord) (l : Loco) : Prop where
  priority : l.priority = 1
  railcom : l.rcSpeed = 0 ∧ l.rcQos = 0 ∧ l.rcOptions = 0
  persisted : ∀ r, answer = some r →
    l.name = r.name ∧ l.mode = r.mode ∧ l.speedSteps = r.speedSteps ∧ l.rvvvvvvv = r.rvvvvvvv ∧ l.f31_0 = r.f31_0
  default : answer = none → l.name = "" ∧ l.mode = 0 ∧ l.speedSteps = 4 ∧ l.rvvvvvvv = 0x80 ∧ l.f31_0 = 0

/-- `get_or_create(a)`: the record that is there, else one just created (R230). -/
def GotOrCreated (P : Params) (a : Addr) (s : State) (l : Loco) : Prop :=
  match locoGet a s.locos with
  | some old => l = old
  | none => CreatedLoco (P.nvGet s.lookups a) l

/-- There is a record at an address, or room for one (R230). -/
def locoRoom (P : Params) (a : Addr) (s : State) : Prop :=
  (locoGet a s.locos).isSome = true ∨ s.locos.length < P.locoMax

/-- A record is stored, with its `PERSIST` event of two words and then its `LOCO_INFO_EV` (R117, R235, R628). -/
def locoStored (a : Addr) (l : Loco) (s : State) : State :=
  { s with
    locos := locoPut a l s.locos
    events :=
      s.events ++
        [eventWord 0x09#8 a 0 0, (0#8 ++ locoInfoValue l).cast (by decide), eventWord 0x04#8 a 0 0] }

/-- How a loco command ends: in `DCCOperations` its packet waits for `FRONTQ` and the answer waits with it, else `OK` is answered at
once (R231, R235). -/
def locoAnswered (pkt : List Byte) (s : State) : State :=
  if s.arbState = modeValue .dccOperations then
    { s with host := { s.host with phase := .hPush, pend := some { target := .frontq, bytes := pkt, adm := s.arbState } } }
  else respond statusOk 0 s

/-- What no command changes: the agents other than HOST but for the resume flags, the queues a packet waits for, the outputs, the
time, the fault record, and the model's own fields but for the count of look-ups. -/
structure CommandFrame (s t : State) : Prop where
  priorityCount : t.priorityCount = s.priorityCount
  act : t.act = s.act
  curLim : t.curLim = s.curLim
  bidiEn : t.bidiEn = s.bidiEn
  notify : t.notify = s.notify
  frontq : t.frontq = s.frontq
  backq : t.backq = s.backq
  feedbackq : t.feedbackq = s.feedbackq
  ackbuf : t.ackbuf = s.ackbuf
  decupInq : t.decupInq = s.decupInq
  mduInq : t.mduInq = s.mduInq
  decupReply : t.decupReply = s.decupReply
  mduReply : t.mduReply = s.mduReply
  uartFifo : t.uartFifo = s.uartFifo
  sched : t.sched = s.sched
  dcc : { t.dcc with resume := s.dcc.resume } = s.dcc
  decup : { t.decup with resume := s.decup.resume } = s.decup
  mdu : { t.mdu with resume := s.mdu.resume } = s.mdu
  cutout : t.cutout = s.cutout
  svcack : t.svcack = s.svcack
  fatal : t.fatal = s.fatal
  track : t.track = s.track
  now : t.now = s.now
  agenda : t.agenda = s.agenda
  freeMoves : t.freeMoves = s.freeMoves
  polled : t.polled = s.polled
  issuer : t.issuer = s.issuer
  rxPkt : t.rxPkt = s.rxPkt
  outLatch : t.outLatch = s.outLatch

/-! ### Datagrams -/

/-- Bytes that pass the parity check (R381). -/
def bytesValid (bs : List Byte) : Prop :=
  ∀ b ∈ bs, popcount b = 4

/-- No data symbol comes next: nothing does, or a byte that carries none, whatever follows it (R150, R383 (c)). -/
def noDataNext (bs : List Byte) : Prop :=
  bs = [] ∨ ∃ x tail, x ∈ [0x0F#8, 0xF0#8, 0x3C#8, 0xE1#8, 0x87#8, 0xC3#8] ∧ bytesValid tail ∧ bs = x :: tail

/-- Where the parse ends: at the end, at `NACK`, `BUSY` or a reserved byte (R383 (b)), at another id (R384), or where a datagram has no
second or no third symbol (R383 (c)). Whatever follows is not read. `enc` gives the byte of a data value (R150). -/
inductive ParseEnd (enc : BitVec 6 → Byte) : List Byte → Prop where
  | atEnd : ParseEnd enc []
  | stopByte (x : Byte) (tail : List Byte) :
      x ∈ [0x3C#8, 0xE1#8, 0x87#8, 0xC3#8] → bytesValid tail → ParseEnd enc (x :: tail)
  | otherId (n : BitVec 6) (tail : List Byte) :
      n.extractLsb' 2 4 ≠ 0 → n.extractLsb' 2 4 ≠ 7 → bytesValid tail → ParseEnd enc (enc n :: tail)
  | noSecond (n : BitVec 6) (rest : List Byte) :
      n.extractLsb' 2 4 = 0 ∨ n.extractLsb' 2 4 = 7 → noDataNext rest → ParseEnd enc (enc n :: rest)
  | noThird (n m : BitVec 6) (rest : List Byte) :
      n.extractLsb' 2 4 = 7 → noDataNext rest → ParseEnd enc (enc n :: enc m :: rest)

/-! ### The loco pass -/

/-- SCHED after the advance from `a`: at the next higher address with its first packet, or at the end of the pass (R258). -/
def schedPast (a : Addr) (t : List (Addr × Loco)) (r : SchedRegs) : SchedRegs :=
  match locoAfter a t with
  | some b => { r with it := some b, k := 0 }
  | none => { r with it := none, k := 0, phase := .opsPassEnd }

/-! ### Steps -/

/-- The next step is the move `m`, with the rest of the agenda behind it. -/
def NextIs (s : State) (m : Move) (rest : List Move) : Prop :=
  s.fatal = none ∧ s.outLatch = none ∧ s.agenda = m :: rest

/-- The state in which the first move of the agenda is taken. -/
def took (rest : List Move) (s : State) : State :=
  { s with agenda := rest }

/-- The rows that are DCC packets. -/
def isPacketRow (i : Instr) : Bool :=
  match i with
  | .dccIdle | .dccReset | .dccSpeed14 .. | .dccSpeed28 .. | .dccSpeed128 .. | .dccFg1 .. | .dccFg2a .. | .dccFg2b ..
  | .dccFg3 .. | .dccFg4 .. | .dccFg5 .. | .dccPomRead .. | .dccPomWrite .. | .dccSvcVerifyByte .. | .dccSvcWriteByte ..
  | .dccSvcVerifyBit .. => true
  | .acquire _ | .suspend _ | .release _ | .short | .powerOn | .locoDrive .. | .locoFunction .. | .locoMode .. | .locoInfo _
  | .locoRailcom _ | .locoErase _ | .locoEraseAll | .cvRead _ | .cvWrite .. | .cvPomRead .. | .cvPomWrite .. | .sendFront _
  | .sendBack _ | .decupTx _ | .mduTx _ | .cfgWrite .. | .cfgRead _ | .bidiAppPom _ | .bidiAppDyn .. | .response ..
  | .event .. => false

/-- The commands that only HOST may issue (R526). -/
def isHostOnly (i : Instr) : Bool :=
  match i with
  | .locoDrive .. | .locoFunction .. | .locoMode .. | .locoInfo _ | .locoRailcom _ | .locoErase _ | .locoEraseAll | .cvRead _
  | .cvWrite .. | .cvPomRead .. | .cvPomWrite .. | .sendFront _ | .sendBack _ | .decupTx _ | .mduTx _ | .cfgWrite ..
  | .cfgRead _ => true
  | .acquire _ | .suspend _ | .release _ | .short | .powerOn | .dccIdle | .dccReset | .dccSpeed14 .. | .dccSpeed28 ..
  | .dccSpeed128 .. | .dccFg1 .. | .dccFg2a .. | .dccFg2b .. | .dccFg3 .. | .dccFg4 .. | .dccFg5 .. | .dccPomRead ..
  | .dccPomWrite .. | .dccSvcVerifyByte .. | .dccSvcWriteByte .. | .dccSvcVerifyBit .. | .bidiAppPom _ | .bidiAppDyn ..
  | .response .. | .event .. => false

/-! ### The end of a run (R630) -/

/-- A run is over normally (R630). "The command port" is read as the port of HOST, whose registers R630 names beside it (R5, R43): ANALOG
and EXT are environment, R630 leaves the environment its steps, and their ports may hold commands (log 37). -/
structure NormalEnd (s : State) : Prop where
  fatal : s.fatal = none
  state : s.arbState = stSuspended ∨ s.arbState = stShort
  drivers : allQuiet s = true
  sched : s.sched.phase = .idle
  host : s.host.phase = .hIdle
  port : s.hostPort.cmds = []
  cutout : s.cutout.phase = .cOff
  svcack : s.svcack.phase = .aOff
  decupReply : s.decupReply = []
  mduReply : s.mduReply = []

/-- What a program observes at the end of a run (R630). -/
structure Observation where
  events : List Word
  track : List (Mode × Symbol)
  hostResponses : List Word
  analogResponses : List Word
  extResponses : List Word
  locos : List (Addr × Loco)
  cfg : Settings
  priorityCount : Nat
  curLim : BitVec 2
  deriving DecidableEq, Repr

/-- The observation of a state (R630). -/
def observe (s : State) : Observation where
  events := s.events
  track := s.track
  hostResponses := s.hostPort.resp
  analogResponses := s.analogPort.resp
  extResponses := s.extPort.resp
  locos := s.locos
  cfg := s.cfg
  priorityCount := s.priorityCount
  curLim := s.curLim

/-! ### Runs and weak fairness (R9) -/

/-- The moves that are steps of an agent of its own accord. ARB has none (R200); the steps of UARTRX, DECUPEDGE, MDUCAP and SVCACK
and the samples of ANALOG are inputs, whose times are free (I23 of spec/93). -/
def agentMoves : Agent → List Move
  | .host => [.host]
  | .sched => [.sched]
  | .dccdrv => [.dccdrv true, .dccdrv false]
  | .cutout => [.cutout]
  | .decupdrv => [.decupdrv true, .decupdrv false]
  | .mdudrv => [.mdudrv true, .mdudrv false]
  | .analog => [.analog]
  | .ext => [.ext]
  | .time => [.time]
  | .arb | .uartrx | .decupedge | .mducap | .svcack => []

/-- The state of the block, without the model's own fields. -/
def blockState (s : State) : State :=
  { s with
    agenda := [], freeMoves := 0, lookups := 0, polled := false, issuer := .host, rxPkt := [], outLatch := none }

/-- A move is held: taken now, it leads nowhere but to the block as it is (R9, R506, log 2). A move that has no next state, as every move
of a faulted state (R504 (b)) and TIME at the end of its counter (R46), is held too (log 26). -/
def Held (m : Move) (s : State) : Prop :=
  ∀ t, step { s with agenda := [m], outLatch := none } = .next t → blockState t = blockState s

/-- An infinite run. -/
def IsRun (σ : Nat → State) : Prop :=
  ∀ n, step (σ n) = .next (σ (n + 1))

/-- The move that the step of a state takes. -/
def takenMove (s : State) : Move :=
  (nextMove Config.params s).1

/-- Weak fairness to a group of moves: while one of them can be taken at every instant from some instant on, one is taken. -/
def FairTo (ms : List Move) (σ : Nat → State) : Prop :=
  ∀ n, (∀ k, n ≤ k → ∃ m ∈ ms, ¬Held m (σ k)) → ∃ k, n ≤ k ∧ takenMove (σ k) ∈ ms

/-- A run that is weakly fair to every agent (R9), with no word placed by hand (log 6). -/
structure FairRun (σ : Nat → State) : Prop where
  run : IsRun σ
  noLatch : (σ 0).outLatch = none
  fair : ∀ a, FairTo (agentMoves a) σ

/-- The host's duty to take every reply (R415, R442, R631), a premise of its own. -/
def RepliesTaken (σ : Nat → State) : Prop :=
  FairTo [.replyDecup] σ ∧ FairTo [.replyMdu] σ

end Sys2Proof.Machine
end

