-- ==== Sys2Proof/Certificates/Slice0/Obligations.lean ====
section
/-! DEFINITION. The statements about the model, for the provers. Each docstring names the rules it formalises; OBLIGATIONS.json says
which are stated by a rule and which are derived. Statements about `exec` are about every state, those about `step` name the move
that is taken. -/

open Sys2Proof Sys2Proof.Machine

/-! ### Encoding -/

/-- Decoding the words of a well-formed instruction gives it back, for every row of the opcode table with every operand (R113 to
R117, R130 to R141, R151, R152). That packet rows and datagrams are told apart by context is the model's (logs 7, 8). -/
def Obligations.DecodeEncodeRoundTrip : Prop :=
  ∀ i : Instr, WellFormed i = true → decode (encode i) = .ok i

/-- Words written out from the rules decode to their instructions: a command of each group (R113, R114), a command with payload
(R115), packets of each format (R131 to R141), both datagrams (R151, R152), a response (R116) and an event (R117). -/
def Obligations.ListedWordsDecode : Prop :=
  decode (.command [0x0100000000010000#64]) = .ok (.acquire 0x01) ∧
  decode (.command [0x10000C008A040000#64]) = .ok (.locoDrive 3 4 0x8A) ∧
  decode (.command [0x2300FC0205000000#64]) = .ok (.cvPomWrite 63 2 5) ∧
  decode (.command [0x3000000000000400#64, 0x033F8AB600000000#64]) = .ok (.sendFront [0x03, 0x3F, 0x8A, 0xB6]) ∧
  decode (.command [0x4000000011030000#64]) = .ok (.cfgWrite 3 17) ∧
  decode (.packet {} [0xFF, 0x00, 0xFF]) = .ok .dccIdle ∧
  decode (.packet {} [0x03, 0x3F, 0x8A, 0xB6]) = .ok (.dccSpeed128 3 true 10 0xB6) ∧
  decode (.packet {} [0xC4, 0xD2, 0x9F, 0x89]) = .ok (.dccFg1 1234 0x1F 0x89) ∧
  decode (.packet {} [0x03, 0xEC, 0x02, 0x05, 0xE8]) = .ok (.dccPomWrite 3 2 5 0xE8) ∧
  decode (.packet { service := true } [0x74, 0x1C, 0x00, 0x68]) = .ok (.dccSvcVerifyByte 28 0 0x68) ∧
  decode (.datagram [0x00#6, 0x2A#6]) = .ok (.bidiAppPom 0x2A) ∧
  decode (.datagram [0x1D#6, 0x05#6, 0x07#6]) = .ok (.bidiAppDyn 0x45 7) ∧
  decode (.response 0x0100000000000002#64) = .ok (.response 0x01 2) ∧
  decode (.event [0x01000C1C2A000000#64]) = .ok (.event 0x01 3 28 0x2A none)

/-- The fields of a command word stand where R113 puts them: `OP` from bit 56, `ADDR` from 42, `CVI` from 32, `DATA` from 24, `AUX`
from 16, `LEN` from 8, `RSV` from 0; and each is read back. -/
def Obligations.CommandWordFields : Prop :=
  ∀ f : CmdFields,
    f.toWord.toNat =
        f.op.toNat * 2 ^ 56 + f.addr.toNat * 2 ^ 42 + f.cvi.toNat * 2 ^ 32 + f.data.toNat * 2 ^ 24 + f.aux.toNat * 2 ^ 16 +
          f.len.toNat * 2 ^ 8 + f.rsv.toNat ∧
      CmdFields.ofWord f.toWord = f

/-- R115. Payload byte `j` of `n` bytes is bits `[63 - 8·(j mod 8) : 56 - 8·(j mod 8)]` of payload word `j / 8`, there are `n`
bytes and the rest is ignored; the four payload opcodes have `ceil(LEN/8)` payload words and every other word has none. -/
def Obligations.PayloadPacking : Prop :=
  (∀ (ws : List Word) (n : Nat), n ≤ 8 * ws.length →
    (unpackPayload ws n).length = n ∧
    ∀ j, j < n → (unpackPayload ws n)[j]? = some ((ws.getD (j / 8) 0).extractLsb' (56 - 8 * (j % 8)) 8)) ∧
  ∀ w : Word,
    payloadCount w =
      if (CmdFields.ofWord w).op ∈ [0x30#8, 0x31#8, 0x38#8, 0x39#8] then ((CmdFields.ofWord w).len.toNat + 7) / 8 else 0

/-- R120 and R121: where the fields of a loco stand in the `VALUE` of `LOCO_INFO` and in the second word of `PERSIST`, and in the
`VALUE` of `LOCO_RAILCOM`. -/
def Obligations.LocoValueLayouts : Prop :=
  ∀ l : Loco,
    (locoInfoValue l).extractLsb' 48 8 = l.rvvvvvvv ∧
    (locoInfoValue l).extractLsb' 45 3 = l.speedSteps ∧
    (locoInfoValue l).extractLsb' 13 32 = l.f31_0 ∧
    (locoInfoValue l).extractLsb' 5 8 = BitVec.ofNat 8 l.priority ∧
    (locoInfoValue l).extractLsb' 0 5 = 0 ∧
    (locoRailcomValue l).extractLsb' 40 16 = l.rcSpeed ∧
    (locoRailcomValue l).extractLsb' 32 8 = l.rcQos ∧
    (locoRailcomValue l).extractLsb' 24 8 = l.rcOptions ∧
    (locoRailcomValue l).extractLsb' 0 24 = 0

/-- The output words. A response word is `STATUS` in bits 63:56 and `VALUE` below (R116); an event word holds `EV`, `ADDR`, `CVI`
and `DATA` as R117 says. A response goes to the port of its issuer, and HOST is idle again (R200, R231); that `HOST.cmd` is then none is the
model's choice (log 17), and that the command of ANALOG and of EXT leaves its port with the response is read into the rules (log 3). The
rows RESPONSE and EVENT complete: the word is on its port and nothing else changes (log 6, a choice of the model). -/
def Obligations.ResponsesAndEvents : Prop :=
  (∀ (st : Byte) (v : BitVec 56),
    (responseWord st v).extractLsb' 56 8 = st ∧ (responseWord st v).extractLsb' 0 56 = v) ∧
  (∀ (ev : Byte) (a : Addr) (k : Cvi) (d : Byte),
    (eventWord ev a k d).extractLsb' 56 8 = ev ∧ (eventWord ev a k d).extractLsb' 42 14 = a ∧
    (eventWord ev a k d).extractLsb' 32 10 = k ∧ (eventWord ev a k d).extractLsb' 24 8 = d ∧
    (eventWord ev a k d).extractLsb' 0 24 = 0) ∧
  (∀ (st : Byte) (v : BitVec 56) (s : State),
    (s.issuer = .host →
      respond st v s =
        { s with
          hostPort := { s.hostPort with resp := s.hostPort.resp ++ [responseWord st v] }
          host := { phase := .hIdle, cmd := none, pend := none } } ∧
      exec (.response st v) s =
        .next { s with hostPort := { s.hostPort with resp := s.hostPort.resp ++ [responseWord st v] } }) ∧
    (s.issuer = .analog →
      respond st v s =
        { s with
          analogPort := { cmds := dropCommand s.analogPort.cmds, resp := s.analogPort.resp ++ [responseWord st v] } } ∧
      exec (.response st v) s =
        .next { s with analogPort := { s.analogPort with resp := s.analogPort.resp ++ [responseWord st v] } }) ∧
    (s.issuer = .ext →
      respond st v s =
        { s with extPort := { cmds := dropCommand s.extPort.cmds, resp := s.extPort.resp ++ [responseWord st v] } } ∧
      exec (.response st v) s =
        .next { s with extPort := { s.extPort with resp := s.extPort.resp ++ [responseWord st v] } })) ∧
  ∀ (ev : Byte) (a : Addr) (k : Cvi) (d : Byte) (x : BitVec 56) (s : State),
    exec (.event ev a k d none) s = .next { s with events := s.events ++ [eventWord ev a k d] } ∧
    exec (.event ev a k d (some x)) s =
      .next { s with events := s.events ++ [eventWord ev a k d, (0#8 ++ x).cast (by decide)] }

/-! ### Steps -/

/-- A step runs the decoded command. When the move is HOST's, HOST is in `H_EXEC` and its words decode to `i`, the step is `exec` of
`i` (R231); when the move is ANALOG's or EXT's, the whole command at the head of its port decodes to `i` and may be issued there,
the step is `exec` of `i` too (R200, R231). -/
def Obligations.StepRunsCommand : Prop :=
  ∀ (s : State) (rest : List Move) (c : Command) (i : Instr), decodeCommand c.word c.payload = .ok i →
    (NextIs s .host rest → s.host.phase = .hExec → s.host.cmd = some c →
      step s = exec i { took rest s with issuer := .host }) ∧
    (NextIs s .analog rest → (∃ more, headCommand s.analogPort.cmds = some (c, more)) → arbitrationWord c.word = true →
      step s = exec i { took rest s with issuer := .analog }) ∧
    (NextIs s .ext rest → (∃ more, headCommand s.extPort.cmds = some (c, more)) → arbitrationWord c.word = true →
      step s = exec i { took rest s with issuer := .ext })

/-- A step runs the decoded packet, the decoded datagrams and a placed output word. DCCDRV's `D_SELECT` runs the packet row that the
selected bytes decode to, with the packet in `cur` and off its queue (R354, log 5); SCHED's `OPS_BIDI` runs the datagrams of the
entry it pops, in order (R261 (a), R383); an output word that was placed is run as its row (log 6). -/
def Obligations.StepRunsPacketsAndDatagrams : Prop :=
  (∀ (s : State) (rest : List Move) (ok : Bool) (m : Mode) (t : DccTiming) (i : Instr),
    NextIs s (.dccdrv ok) rest → s.dcc.phase = .dSelect → s.dcc.mode = some m →
    dccTiming Config.params m s.dcc.bidiOn s.act = some t →
    decode (.packet (packetContext m (selectPacket m (took rest s)).1.bytes (took rest s))
      (selectPacket m (took rest s)).1.bytes) = .ok i →
    step s =
      exec i
        { (selectPacket m (took rest s)).2 with
          dcc := { s.dcc with cur := some (selectPacket m (took rest s)).1 } }) ∧
  (∀ (s : State) (rest : List Move) (f : Feedback) (more : List Feedback),
    NextIs s .sched rest → s.sched.phase = .opsBidi → s.arbState = modeValue .dccOperations → s.feedbackq = f :: more →
    step s = runInstrs (feedbackInstrs Config.params f) { took rest s with feedbackq := more, rxPkt := f.pkt }) ∧
  ∀ (s : State) (c : Code) (i : Instr), s.fatal = none → s.outLatch = some c → decode c = .ok i →
    step s = exec i { s with outLatch := none }

/-- R231: `H_IDLE` takes a whole command off the port; `H_PUSH` pushes the packet to its queue and answers `OK` once there is space,
drops the packet and answers `OK` once `STATE` has changed, and is held else. That the held move is a step which leaves the state as it
is, that HOST's port is a list of words, and that `HOST.cmd` is none after the answer is the model's (logs 2, 3 and 17). -/
def Obligations.HostIntakeAndPush : Prop :=
  ∀ (s : State) (rest : List Move), NextIs s .host rest →
    (∀ w more, s.host.phase = .hIdle → s.hostPort.cmds = w :: more → payloadCount w ≤ more.length →
      step s =
        .next
          { took rest s with
            hostPort := { s.hostPort with cmds := more.drop (payloadCount w) }
            host :=
              { s.host with
                phase := .hExec
                cmd :=
                  some
                    { word := w
                      payload := unpackPayload (more.take (payloadCount w)) (CmdFields.ofWord w).len.toNat } } }) ∧
    (∀ p, s.host.phase = .hPush → s.host.pend = some p →
      (s.arbState ≠ p.adm → step s = .next (respond 0x00 0 { took rest s with issuer := .host })) ∧
      (s.arbState = p.adm → targetFree Config.params s p.target = 0 → step s = .next (took rest s)) ∧
      (s.arbState = p.adm → 0 < targetFree Config.params s p.target →
        step s =
          .next
            (respond 0x00 0
              (match p.target with
              | .frontq => { took rest s with issuer := .host, frontq := s.frontq ++ [{ bytes := p.bytes }] }
              | .backq => { took rest s with issuer := .host, backq := s.backq ++ [{ bytes := p.bytes }] }
              | .decupInq => { took rest s with issuer := .host, decupInq := s.decupInq ++ [p.bytes] }
              | .mduInq => { took rest s with issuer := .host, mduInq := s.mduInq ++ [p.bytes] }))))

/-! ### Arbitration -/

/-- R201. `ACQUIRE` of a reserved mode id answers `BAD_OPERAND`; from `Suspended`, with the driver idle and not resumed and, for a DCC
mode, with SCHED idle or waiting, it takes the mode and sets the resume flag of the mode's driver and no other; from any other
`STATE` it answers `CAS_LOST` with the value observed. That the `VALUE` of `BAD_OPERAND` is 0, by R500, and not `STATE`, as R116 gives an
arbitration opcode, is the model's reading (log 18). -/
def Obligations.AcquireRule : Prop :=
  ∀ (mode : BitVec 8) (s : State),
    (Mode.ofId mode = none → exec (.acquire mode) s = .next (respond 0x04 0 s)) ∧
    ∀ m, Mode.ofId mode = some m →
      (s.arbState = 0x0001#16 → driverQuiet s (driverOf m) = true →
        (m = .dccOperations ∨ m = .dccService → schedWaits s = true) →
        exec (.acquire mode) s =
          .next
            (respond 0x00 ((modeValue m).setWidth 56)
              { s with
                arbState := modeValue m
                dcc := { s.dcc with resume := s.dcc.resume || decide (m = .dccOperations ∨ m = .dccService) }
                decup := { s.decup with resume := s.decup.resume || decide (m = .decupZpp ∨ m = .decupZsu) }
                mdu := { s.mdu with resume := s.mdu.resume || decide (m = .mduZpp ∨ m = .mduZsu) } })) ∧
      (s.arbState ≠ 0x0001#16 → exec (.acquire mode) s = .next (respond 0x01 (s.arbState.setWidth 56) s))

/-- R202. `SUSPEND` of a mode that `STATE` holds, or of any mode, writes `Suspend`, emits `TRACK_POWER_OFF` and answers `OK`; with no
mode held, `SUSPEND any` writes nothing and answers `OK`; another mode loses; a reserved id answers `BAD_OPERAND`. That the `VALUE` of
`BAD_OPERAND` is 0, by R500, and not `STATE`, as R116 gives an arbitration opcode, is the model's reading (log 18); that an illegal `STATE`
value, which is never held, counts as no mode is the model's choice (log 24). -/
def Obligations.SuspendRule : Prop :=
  ∀ (mode : BitVec 8) (s : State),
    (Mode.ofId mode = none → mode ≠ 0xFF#8 → exec (.suspend mode) s = .next (respond 0x04 0 s)) ∧
    (∀ m, Mode.ofId mode = some m ∨ mode = 0xFF#8 → s.arbState = modeValue m →
      exec (.suspend mode) s =
        .next (respond 0x00 2 { s with arbState := 0x0002#16, events := s.events ++ [eventWord 0x06#8 0 0 0] })) ∧
    (∀ m, Mode.ofId mode = some m → s.arbState ≠ modeValue m →
      exec (.suspend mode) s = .next (respond 0x01 (s.arbState.setWidth 56) s)) ∧
    (mode = 0xFF#8 → modeOfState s.arbState = none →
      exec (.suspend mode) s = .next (respond 0x00 (s.arbState.setWidth 56) s))

/-- R204. `SHORT` always stores `ShortCircuit` and answers `OK`; it emits `TRACK_POWER_OFF` where `STATE` was another value. -/
def Obligations.ShortRule : Prop :=
  ∀ s : State,
    exec .short s =
      .next
        (respond 0x00 4
          { s with
            arbState := 0x0004#16
            events := if s.arbState = 0x0004#16 then s.events else s.events ++ [eventWord 0x06#8 0 0 0] })

/-- R205. `POWER_ON` from `ShortCircuit` or `Suspended`, once all drivers are idle and not resumed and SCHED is idle or waiting,
enters `DCCOperations` with DCCDRV resumed; in `DCCOperations` it writes nothing and answers `OK`; in any other state it loses. -/
def Obligations.PowerOnRule : Prop :=
  ∀ s : State,
    (s.arbState = 0x0004#16 ∨ s.arbState = 0x0001#16 → allQuiet s = true → schedWaits s = true →
      exec .powerOn s =
        .next (respond 0x00 0x0100 { s with arbState := 0x0100#16, dcc := { s.dcc with resume := true } })) ∧
    (s.arbState = 0x0100#16 → exec .powerOn s = .next (respond 0x00 0x0100 s)) ∧
    (s.arbState ≠ 0x0004#16 → s.arbState ≠ 0x0001#16 → s.arbState ≠ 0x0100#16 →
      exec .powerOn s = .next (respond 0x01 (s.arbState.setWidth 56) s))

/-- R207. `RELEASE` of a mode that is not external answers `BAD_OPERAND`; of the external mode that `STATE` holds, or from `Suspend`
with all drivers idle and not resumed, it writes `Suspended`; otherwise it writes nothing and loses. That the `VALUE` of `BAD_OPERAND` is
0, by R500, and not `STATE`, as R116 gives an arbitration opcode, is the model's reading (log 18). -/
def Obligations.ReleaseRule : Prop :=
  ∀ (mode : BitVec 8) (s : State),
    (¬(0x07 ≤ mode.toNat ∧ mode.toNat ≤ 0x0C) → exec (.release mode) s = .next (respond 0x04 0 s)) ∧
    (0x07 ≤ mode.toNat → mode.toNat ≤ 0x0C →
      exec (.release mode) s =
        .next
          (if s.arbState.toNat = mode.toNat * 256 ∨ (s.arbState = 0x0002#16 ∧ allQuiet s = true) then
            respond 0x00 1 { s with arbState := 0x0001#16 }
          else respond 0x01 (s.arbState.setWidth 56) s))

/-- Held moves (R9, R200, R506) as the model shows them (log 2, a choice of the model): the state stays as it is. `ACQUIRE` waits for
its driver and, for a DCC mode, for SCHED (R201 (b)); `POWER_ON` waits for all (R205 (a)); TIME waits for every urgent step, and else it
alone moves `now`, by one (R9; environment inputs may then come again, log 12). In a state in which a run is over normally, every move of
HOST, SCHED, CUTOUT and the drivers, and every move that takes a reply, is held: only TIME and the environment move the block (R630,
whose empty command port is read as the port of HOST, a choice of the model: log 37). -/
def Obligations.HeldMovesChangeNothing : Prop :=
  (∀ (mode : BitVec 8) (m : Mode) (s : State), Mode.ofId mode = some m → s.arbState = 0x0001#16 →
    (driverQuiet s (driverOf m) = false ∨ ((m = .dccOperations ∨ m = .dccService) ∧ schedWaits s = false)) →
    exec (.acquire mode) s = .next s) ∧
  (∀ s : State, s.arbState = 0x0004#16 ∨ s.arbState = 0x0001#16 → (allQuiet s = false ∨ schedWaits s = false) →
    exec .powerOn s = .next s) ∧
  (∀ (s : State) (rest : List Move), NextIs s .time rest →
    (urgentDue Config.params (took rest s) = true → step s = .next (took rest s)) ∧
    (urgentDue Config.params (took rest s) = false → s.now + 1 < 2 ^ 64 →
      step s = .next { took rest s with now := s.now + 1, polled := false })) ∧
  ∀ (s : State) (m : Move) (rest : List Move) (ok : Bool), NormalEnd s → NextIs s m rest →
    m ∈ [.host, .sched, .cutout, .dccdrv ok, .decupdrv ok, .mdudrv ok, .replyDecup, .replyMdu] →
    step s = .next (took rest s)

/-- Every step keeps the arbitration invariant. -/
def Obligations.ArbInvKept : Prop :=
  ∀ s t : State, ArbInv s → step s = .next t → ArbInv t

/-- What the arbitration invariant says, in the words of R211 (a) to (c): `STATE` is legal; while it is `Suspended` all drivers are
idle; a driver in a phase other than idle or teardown has its mode, `Suspend` or `ShortCircuit` in `STATE`. -/
def Obligations.ArbInvMeansR211 : Prop :=
  ∀ s : State, ArbInv s →
    (s.arbState = 0x0001#16 ∨ s.arbState = 0x0002#16 ∨ s.arbState = 0x0004#16 ∨ ∃ m : Mode, s.arbState = modeValue m) ∧
    (s.arbState = 0x0001#16 → s.dcc.phase = .dIdle ∧ s.decup.phase = .uIdle ∧ s.mdu.phase = .mIdle) ∧
    (s.dcc.phase ≠ .dIdle → s.dcc.phase ≠ .dTeardown →
      s.arbState = 0x0002#16 ∨ s.arbState = 0x0004#16 ∨ ∃ m, s.dcc.mode = some m ∧ s.arbState = modeValue m) ∧
    (s.decup.phase ≠ .uIdle → s.decup.phase ≠ .uTeardown →
      s.arbState = 0x0002#16 ∨ s.arbState = 0x0004#16 ∨ ∃ m, s.decup.mode = some m ∧ s.arbState = modeValue m) ∧
    (s.mdu.phase ≠ .mIdle → s.mdu.phase ≠ .mTeardown →
      s.arbState = 0x0002#16 ∨ s.arbState = 0x0004#16 ∨ ∃ m, s.mdu.mode = some m ∧ s.arbState = modeValue m)

/-- Every step changes `STATE` only from and to the values that a row of the table of R210 names, and raises no `ARB_INVARIANT` fault:
that class is unreachable while the arbitration invariant holds (R503). -/
def Obligations.StateTransitions : Prop :=
  ∀ s t : State, ArbInv s → step s = .next t →
    arbTransition s.arbState t.arbState = true ∧ (s.fatal = none → ∀ r, t.fatal = some r → r.cls ≠ .arbInvariant)

/-- R122 (a), (b), R232 and R526: the commands that are answered without any other effect. From HOST, an `OP` that is not listed
answers `ILLEGAL`, and a non-zero bit in `RSV` or in a field the opcode does not use answers `BAD_OPERAND`. From ANALOG and EXT every
opcode but 0x01 to 0x05, listed or not, answers `ILLEGAL`, before its other fields are looked at (log 31, read into R231 and R526), and
0x01 to 0x05 with a non-zero bit in `RSV` or in a field the opcode does not use answers `BAD_OPERAND`. The meaning of a host-only row
answers `ILLEGAL` to another issuer too. Both statuses carry the `VALUE` 0 of R500; that this holds of 0x01 to 0x05 too, to which R116
gives `STATE`, is the model's reading (log 18). -/
def Obligations.CommandsTurnedAway : Prop :=
  (∀ (s : State) (rest : List Move) (c : Command),
    NextIs s .host rest → s.host.phase = .hExec → s.host.cmd = some c →
    (Opcode.ofByte (CmdFields.ofWord c.word).op = none →
      step s = .next (respond 0x03 0 { took rest s with issuer := .host })) ∧
    ∀ o, Opcode.ofByte (CmdFields.ofWord c.word).op = some o → (CmdFields.ofWord c.word).unusedZero o = false →
      step s = .next (respond 0x04 0 { took rest s with issuer := .host })) ∧
  (∀ (s : State) (rest : List Move) (who : Issuer) (m : Move) (p : Port) (c : Command) (tail : List Word) (op : Byte),
    (who = .analog ∧ m = .analog ∧ p = s.analogPort) ∨ (who = .ext ∧ m = .ext ∧ p = s.extPort) →
    NextIs s m rest → headCommand p.cmds = some (c, tail) → op = (CmdFields.ofWord c.word).op →
    (op ∉ [0x01#8, 0x02#8, 0x03#8, 0x04#8, 0x05#8] → step s = .next (respond 0x03 0 { took rest s with issuer := who })) ∧
    (op ∈ [0x01#8, 0x02#8, 0x03#8, 0x04#8, 0x05#8] →
      ∀ o, Opcode.ofByte op = some o → (CmdFields.ofWord c.word).unusedZero o = false →
        step s = .next (respond 0x04 0 { took rest s with issuer := who }))) ∧
  ∀ (i : Instr) (s : State), isHostOnly i = true → s.issuer ≠ .host → exec i s = .next (respond 0x03 0 s)

/-! ### The loco table -/

/-- R235. `LOCO_DRIVE` from HOST: an illegal operand answers `BAD_OPERAND`; a full table answers `FULL`; otherwise the record, looked
up or created, takes the code and the speed byte, is stored with its events, and in `DCCOperations` its speed packet waits for
`FRONTQ`. A created record has the values of R24 and R230: what the store gives, else the defaults, `priority` `MINP` and `rc_*` 0. -/
def Obligations.LocoDriveRule : Prop :=
  ∀ (a : Addr) (c : BitVec 3) (d : Byte) (s : State), s.issuer = .host →
    GotOrCreated Config.params a s (locoRecord Config.params a s) ∧
    ((addrLegal a && speedLegal c d) = false → exec (.locoDrive a c d) s = .next (respond 0x04 0 s)) ∧
    ((addrLegal a && speedLegal c d) = true → ¬locoRoom Config.params a s →
      exec (.locoDrive a c d) s = .next (respond 0x02 0 s)) ∧
    ((addrLegal a && speedLegal c d) = true → locoRoom Config.params a s →
      exec (.locoDrive a c d) s =
        .next
          (locoAnswered (speedPacket a { locoRecord Config.params a s with speedSteps := c, rvvvvvvv := d })
            (locoStored a { locoRecord Config.params a s with speedSteps := c, rvvvvvvv := d } (lookedUp a s))))

/-- R236 and R233. `LOCO_FUNCTION` from HOST: as `LOCO_DRIVE`, but the record, looked up or created with the values of R24 and R230,
changes in function bit `i` alone, and the packet is that of the group of function `i`. -/
def Obligations.LocoFunctionRule : Prop :=
  (∀ (a : Addr) (i : BitVec 5) (on : Bool) (s : State), s.issuer = .host →
    GotOrCreated Config.params a s (locoRecord Config.params a s) ∧
    (addrLegal a = false → exec (.locoFunction a i on) s = .next (respond 0x04 0 s)) ∧
    (addrLegal a = true → ¬locoRoom Config.params a s → exec (.locoFunction a i on) s = .next (respond 0x02 0 s)) ∧
    (addrLegal a = true → locoRoom Config.params a s →
      exec (.locoFunction a i on) s =
        .next
          (locoAnswered
            (fgPacket a
              { locoRecord Config.params a s with f31_0 := setFunction (locoRecord Config.params a s).f31_0 i on }
              (groupOf i))
            (locoStored a
              { locoRecord Config.params a s with f31_0 := setFunction (locoRecord Config.params a s).f31_0 i on }
              (lookedUp a s))))) ∧
  ∀ (f : BitVec 32) (i : BitVec 5) (on : Bool) (j : Nat), j < 32 →
    (setFunction f i on).getLsbD j = if j = i.toNat then on else f.getLsbD j

/-- R237. `LOCO_MODE` from HOST: an illegal operand answers `BAD_OPERAND`; with no record it answers `NO_LOCO`; otherwise the record
takes the code, keeps its direction and stops. -/
def Obligations.LocoModeRule : Prop :=
  ∀ (a : Addr) (c : BitVec 3) (s : State), s.issuer = .host →
    ((addrLegal a && stepsLegal c) = false → exec (.locoMode a c) s = .next (respond 0x04 0 s)) ∧
    ((addrLegal a && stepsLegal c) = true → locoGet a s.locos = none → exec (.locoMode a c) s = .next (respond 0x06 0 s)) ∧
    ∀ l, (addrLegal a && stepsLegal c) = true → locoGet a s.locos = some l →
      exec (.locoMode a c) s =
        .next
          (locoAnswered
            (speedPacket a { l with speedSteps := c, rvvvvvvv := BitVec.ofBool (l.rvvvvvvv.getLsbD 7) ++ 0#7 })
            (locoStored a { l with speedSteps := c, rvvvvvvv := BitVec.ofBool (l.rvvvvvvv.getLsbD 7) ++ 0#7 } s))

/-- R238 and R239. `LOCO_INFO` and `LOCO_RAILCOM` from HOST answer `BAD_OPERAND`, `NO_LOCO`, or `OK` with the record's value; no state
changes but the response. -/
def Obligations.LocoReadRule : Prop :=
  ∀ (a : Addr) (s : State), s.issuer = .host →
    (addrLegal a = false →
      exec (.locoInfo a) s = .next (respond 0x04 0 s) ∧ exec (.locoRailcom a) s = .next (respond 0x04 0 s)) ∧
    (addrLegal a = true → locoGet a s.locos = none →
      exec (.locoInfo a) s = .next (respond 0x06 0 s) ∧ exec (.locoRailcom a) s = .next (respond 0x06 0 s)) ∧
    ∀ l, addrLegal a = true → locoGet a s.locos = some l →
      exec (.locoInfo a) s = .next (respond 0x00 (locoInfoValue l) s) ∧
      exec (.locoRailcom a) s = .next (respond 0x00 (locoRailcomValue l) s)

/-- R240 and R242. `LOCO_ERASE` from HOST removes the record if there is one and emits `ERASE` in every case; `LOCO_ERASE_ALL` empties
the table and emits `ERASE_ALL`. Nothing else changes: POM requests for the address stay queued. -/
def Obligations.LocoEraseRule : Prop :=
  ∀ (a : Addr) (s : State), s.issuer = .host →
    (addrLegal a = false → exec (.locoErase a) s = .next (respond 0x04 0 s)) ∧
    (addrLegal a = true →
      exec (.locoErase a) s =
        .next
          (respond 0x00 0 { s with locos := locoErase a s.locos, events := s.events ++ [eventWord 0x0A#8 a 0 0] })) ∧
    exec .locoEraseAll s = .next (respond 0x00 0 { s with locos := [], events := s.events ++ [eventWord 0x0B#8 0 0 0] })

/-- R241. `LOCO_INFO`, `LOCO_RAILCOM`, `LOCO_MODE`, `LOCO_ERASE` and `CV_POM_WRITE` never create a loco, and reading a loco never
changes the table. -/
def Obligations.NoCreateRule : Prop :=
  ∀ (i : Instr) (s t : State), exec i s = .next t →
    ((∃ a, i = .locoInfo a) ∨ (∃ a, i = .locoRailcom a) → t.locos = s.locos) ∧
    ((∃ a c, i = .locoMode a c) ∨ (∃ a, i = .locoErase a) ∨ (∃ a k d, i = .cvPomWrite a k d) →
      ∀ b, locoGet b s.locos = none → locoGet b t.locos = none)

/-- The loco table as a map (R23): reading after a write and after an erase; and of a canonical table, that every entry is what its
address reads as, and the iteration in ascending order (R255, R258): it starts at the least address, and only an empty table has no
start; it goes on to the least greater address, and ends only where no greater address has a record. -/
def Obligations.LocoTableLaws : Prop :=
  (∀ (t : List (Addr × Loco)) (a b : Addr) (l : Loco),
    locoGet b (locoPut a l t) = (if b = a then some l else locoGet b t) ∧
    locoGet b (locoErase a t) = if b = a then none else locoGet b t) ∧
  ∀ t : List (Addr × Loco), locosWf t →
    (∀ e ∈ t, locoGet e.1 t = some e.2) ∧
    (locoFirst t = none ↔ t = []) ∧
    (∀ a, locoAfter a t = none → ∀ c, (locoGet c t).isSome = true → c.toNat ≤ a.toNat) ∧
    (∀ a, locoFirst t = some a → (locoGet a t).isSome = true ∧ ∀ b, (locoGet b t).isSome = true → a.toNat ≤ b.toNat) ∧
    (∀ a b, locoAfter a t = some b →
      (locoGet b t).isSome = true ∧ a.toNat < b.toNat ∧
      ∀ c, (locoGet c t).isSome = true → a.toNat < c.toNat → b.toNat ≤ c.toNat)

/-- Every step keeps the loco table canonical, within its capacity and legal in every field, and the priority counter in its range
(R23, R24, R25). -/
def Obligations.LocoInvKept : Prop :=
  ∀ s t : State, LocoInv Config.params s → step s = .next t → LocoInv Config.params t

/-! ### CV, raw packet and register commands -/

/-- R243 and R244. `CV_READ` and `CV_WRITE` from HOST answer `NOT_OWNER` outside the DCC modes and `FULL` with a full deque; otherwise
the request is queued at the back. The data byte of a `READ` entry, which has no meaning (R32), is 0 by the model's choice (log 33). -/
def Obligations.CvServiceRule : Prop :=
  ∀ (k : Cvi) (d : Byte) (s : State), s.issuer = .host →
    (inDccMode s = false →
      exec (.cvRead k) s = .next (respond 0x05 0 s) ∧ exec (.cvWrite k d) s = .next (respond 0x05 0 s)) ∧
    (inDccMode s = true → Config.params.cvDequeCap ≤ s.cvsvc.length →
      exec (.cvRead k) s = .next (respond 0x02 0 s) ∧ exec (.cvWrite k d) s = .next (respond 0x02 0 s)) ∧
    (inDccMode s = true → s.cvsvc.length < Config.params.cvDequeCap →
      exec (.cvRead k) s =
        .next (respond 0x00 0 { s with cvsvc := s.cvsvc ++ [{ op := .read, cvi := k, data := 0 }] }) ∧
      exec (.cvWrite k d) s =
        .next (respond 0x00 0 { s with cvsvc := s.cvsvc ++ [{ op := .write, cvi := k, data := d }] }))

/-- R245 and R246. `CV_POM_READ` and `CV_POM_WRITE` from HOST: operand, mode and space are checked in this order; then a read, which
creates the loco with the values of R24 and R230, and a write, which does not, are queued at the back with a deadline `POM_DEADLINE_US`
from now. -/
def Obligations.CvPomRule : Prop :=
  ∀ (a : Addr) (k : Cvi) (d : Byte) (s : State), s.issuer = .host →
    GotOrCreated Config.params a s (locoRecord Config.params a s) ∧
    (addrLegal a = false →
      exec (.cvPomRead a k) s = .next (respond 0x04 0 s) ∧ exec (.cvPomWrite a k d) s = .next (respond 0x04 0 s)) ∧
    (addrLegal a = true → inDccMode s = false →
      exec (.cvPomRead a k) s = .next (respond 0x05 0 s) ∧ exec (.cvPomWrite a k d) s = .next (respond 0x05 0 s)) ∧
    (addrLegal a = true → inDccMode s = true → Config.params.cvDequeCap ≤ s.cvpom.length →
      exec (.cvPomRead a k) s = .next (respond 0x02 0 s) ∧ exec (.cvPomWrite a k d) s = .next (respond 0x02 0 s)) ∧
    (addrLegal a = true → inDccMode s = true → s.cvpom.length < Config.params.cvDequeCap →
      exec (.cvPomWrite a k d) s =
        .next
          (respond 0x00 0
            { s with
              cvpom :=
                s.cvpom ++
                  [{ op := .write, addr := a, cvi := k, data := d, deadline := s.now + 500000, sent := false }] }) ∧
      (¬locoRoom Config.params a s → exec (.cvPomRead a k) s = .next (respond 0x02 0 s)) ∧
      (locoRoom Config.params a s →
        exec (.cvPomRead a k) s =
          .next
            (respond 0x00 0
              { lookedUp a s with
                locos :=
                  if (locoGet a s.locos).isSome then s.locos else locoPut a (locoRecord Config.params a s) s.locos
                cvpom :=
                  s.cvpom ++
                    [{ op := .read, addr := a, cvi := k, data := 0, deadline := s.now + 500000, sent := false }] })))

/-- R247, R248, R400 and R430. `SEND_FRONT`, `SEND_BACK`, `DECUP_TX` and `MDU_TX` from HOST: a bad payload answers `BAD_OPERAND`, a
wrong mode `NOT_OWNER`; otherwise the bytes as given wait for their queue, with `STATE` as it is now, and the answer waits. -/
def Obligations.SendRule : Prop :=
  ∀ (p : List Byte) (s : State), s.issuer = .host →
    ((3 ≤ p.length ∧ p.length ≤ 6 ∧ xorAll p = 0) →
      (inDccMode s = true →
        exec (.sendFront p) s =
          .next
            { s with host := { s.host with phase := .hPush, pend := some { target := .frontq, bytes := p, adm := s.arbState } } } ∧
        exec (.sendBack p) s =
          .next
            { s with host := { s.host with phase := .hPush, pend := some { target := .backq, bytes := p, adm := s.arbState } } }) ∧
      (inDccMode s = false →
        exec (.sendFront p) s = .next (respond 0x05 0 s) ∧ exec (.sendBack p) s = .next (respond 0x05 0 s))) ∧
    (¬(3 ≤ p.length ∧ p.length ≤ 6 ∧ xorAll p = 0) →
      exec (.sendFront p) s = .next (respond 0x04 0 s) ∧ exec (.sendBack p) s = .next (respond 0x04 0 s)) ∧
    ((1 ≤ p.length ∧ p.length ≤ Config.params.decupMaxPacket) →
      (s.arbState = modeValue .decupZpp ∨ s.arbState = modeValue .decupZsu →
        exec (.decupTx p) s =
          .next
            { s with
              host := { s.host with phase := .hPush, pend := some { target := .decupInq, bytes := p, adm := s.arbState } } }) ∧
      (s.arbState ≠ modeValue .decupZpp → s.arbState ≠ modeValue .decupZsu →
        exec (.decupTx p) s = .next (respond 0x05 0 s))) ∧
    (¬(1 ≤ p.length ∧ p.length ≤ Config.params.decupMaxPacket) → exec (.decupTx p) s = .next (respond 0x04 0 s)) ∧
    ((1 ≤ p.length ∧ p.length ≤ Config.params.mduMaxPacket) →
      (s.arbState = modeValue .mduZpp ∨ s.arbState = modeValue .mduZsu →
        exec (.mduTx p) s =
          .next
            { s with
              host := { s.host with phase := .hPush, pend := some { target := .mduInq, bytes := p, adm := s.arbState } } }) ∧
      (s.arbState ≠ modeValue .mduZpp → s.arbState ≠ modeValue .mduZsu → exec (.mduTx p) s = .next (respond 0x05 0 s))) ∧
    (¬(1 ≤ p.length ∧ p.length ≤ Config.params.mduMaxPacket) → exec (.mduTx p) s = .next (respond 0x04 0 s))

/-- R249 and R119 (a), (b). `CFG_WRITE` from HOST stores a legal value in its setting and in no other, in every `STATE` and without a
change of `ACT`; an illegal value and an index without a setting answer `BAD_OPERAND` and write nothing. -/
def Obligations.CfgWriteRule : Prop :=
  (∀ (i : BitVec 8) (d : Byte) (s : State), s.issuer = .host →
    (∀ x, settingOfIndex i = some x → settingLegal d x = true →
      exec (.cfgWrite i d) s = .next (respond 0x00 0 { s with cfg := setSetting s.cfg d x })) ∧
    (∀ x, settingOfIndex i = some x → settingLegal d x = false → exec (.cfgWrite i d) s = .next (respond 0x04 0 s)) ∧
    (settingOfIndex i = none → exec (.cfgWrite i d) s = .next (respond 0x04 0 s))) ∧
  (∀ (c : Settings) (d : Byte) (x y : Setting),
    getSetting (setSetting c d x) y = if y = x then some d else getSetting c y) ∧
  ∀ i : BitVec 8, (settingOfIndex i).isSome = true ↔ 0x01 ≤ i.toNat ∧ i.toNat ≤ 0x0E

/-- R250, R118 and R119 (c), (d). `CFG_READ` from HOST answers the value of a setting, `UNINIT` for one never written, the view behind
a read-only index, and `BAD_OPERAND` for a reserved one; no state changes but the response. -/
def Obligations.CfgReadRule : Prop :=
  ∀ (i : BitVec 8) (s : State), s.issuer = .host →
    (∀ x d, settingOfIndex i = some x → getSetting s.cfg x = some d →
      exec (.cfgRead i) s = .next (respond 0x00 (d.setWidth 56) s)) ∧
    (∀ x, settingOfIndex i = some x → getSetting s.cfg x = none → exec (.cfgRead i) s = .next (respond 0x07 0 s)) ∧
    exec (.cfgRead 0x00) s = .next (respond 0x00 (s.arbState.setWidth 56) s) ∧
    (s.priorityCount < 256 → exec (.cfgRead 0x20) s = .next (respond 0x00 (BitVec.ofNat 56 s.priorityCount) s)) ∧
    exec (.cfgRead 0x21) s = .next (respond 0x00 (s.curLim.setWidth 56) s) ∧
    exec (.cfgRead 0x22) s = .next (respond 0x00 (if s.bidiEn then 1 else 0) s) ∧
    exec (.cfgRead 0x23) s =
      .next
        (respond 0x00
          (BitVec.ofNat 56
            ((if s.dcc.phase = .dIdle then 0 else if s.dcc.phase = .dTeardown then 2 else 1) +
              4 * (if s.decup.phase = .uIdle then 0 else if s.decup.phase = .uTeardown then 2 else 1) +
              16 * (if s.mdu.phase = .mIdle then 0 else if s.mdu.phase = .mTeardown then 2 else 1)))
          s) ∧
    exec (.cfgRead 0x24) s = .next (respond 0x00 (s.mdu.rate.setWidth 56) s) ∧
    exec (.cfgRead 0x25) s = .next (respond 0x00 (if s.decup.idKnown then 1 else 0) s) ∧
    (s.cvsvc.length ≤ 255 → exec (.cfgRead 0x26) s = .next (respond 0x00 (BitVec.ofNat 56 s.cvsvc.length) s)) ∧
    (s.cvpom.length ≤ 255 → exec (.cfgRead 0x27) s = .next (respond 0x00 (BitVec.ofNat 56 s.cvpom.length) s)) ∧
    (0x0F ≤ i.toNat → i.toNat < 0x20 ∨ 0x27 < i.toNat → exec (.cfgRead i) s = .next (respond 0x04 0 s))

/-- The frame of the 22 commands: what `CommandFrame` lists never changes; `STATE` and the resume flags change only by arbitration
commands, the settings only by `CFG_WRITE`, the loco table, the event port and the CV deques only by the commands that may write
them; and the port of another issuer never does. -/
def Obligations.CommandsFrame : Prop :=
  ∀ (i : Instr) (s t : State), isArbitration i = true ∨ isHostOnly i = true → exec i s = .next t →
    CommandFrame s t ∧
    (isArbitration i = false →
      t.arbState = s.arbState ∧ t.dcc.resume = s.dcc.resume ∧ t.decup.resume = s.decup.resume ∧
        t.mdu.resume = s.mdu.resume) ∧
    ((∀ x d, i ≠ .cfgWrite x d) → t.cfg = s.cfg) ∧
    (mayWriteLocos i = false → t.locos = s.locos ∧ t.lookups = s.lookups) ∧
    (mayEmit i = false → t.events = s.events) ∧
    (mayQueueSvc i = false → t.cvsvc = s.cvsvc) ∧
    (mayQueuePom i = false → t.cvpom = s.cvpom) ∧
    (s.issuer ≠ .host → t.hostPort = s.hostPort ∧ t.host = s.host) ∧
    (s.issuer ≠ .analog → t.analogPort = s.analogPort) ∧
    (s.issuer ≠ .ext → t.extPort = s.extPort)

/-! ### Packets -/

/-- R354 (b), (c) for each of the 16 packet rows: in `D_SELECT` the row's symbols go to the track under the driver's mode, `tx_end` is
the time now and the packet's duration, and the driver goes to `D_TX`; nothing else changes. -/
def Obligations.PacketRowsAreSent : Prop :=
  ∀ (i : Instr) (s : State) (m : Mode) (t : DccTiming), isPacketRow i = true →
    s.dcc.phase = .dSelect → s.dcc.mode = some m → dccTiming Config.params m s.dcc.bidiOn s.act = some t →
    exec i s =
      .next
        { s with
          track := s.track ++ (dccSymbols t (packetBytes i)).map fun x => (m, x)
          dcc := { s.dcc with txEnd := s.now + dccDuration t (packetBytes i), phase := .dTx } }

/-- R319: the transmission time of a packet is the closed form of the rule, and it is the sum of the durations of the packet's
symbols. The hypotheses are the ranges of the settings (R118) and of a BiDi bit that is on (R311). -/
def Obligations.DurationIsSymbolSum : Prop :=
  ∀ (t : DccTiming) (pkt : List Byte) (ones e : Nat), t.bit1 ≤ 255 → t.bit0 ≤ 255 → (∀ b, t.bidi = some b → 1 ≤ b ∧ b ≤ 255) →
    ones = (pkt.map popcount).sum →
    e = (match t.bidi with | some b => b + max 1 (b - t.offset) | none => 2 * t.bit1) →
    dccDuration t pkt =
        2 * t.bit1 * (t.preamble + ones) + 2 * t.bit0 * (pkt.length + (8 * pkt.length - ones)) + e ∧
      symbolsDur (dccSymbols t pkt) = dccDuration t pkt

/-- The builders of R302 to R306 write the packet rows of R133 to R141 for every address a packet can carry. The last byte `x` is the
checksum of R132: the XOR of all bytes of every built packet is 0. -/
def Obligations.BuildersAreRows : Prop :=
  (∀ (a : Addr) (l : Loco), a.toNat ≤ 10239 → ∃ x : Byte,
    (l.speedSteps = 0 → (l.rvvvvvvv.extractLsb' 0 7).toNat ≤ 15 →
      speedPacket a l =
        packetBytes (.dccSpeed14 a (l.rvvvvvvv.getLsbD 7) (l.f31_0.getLsbD 0) (l.rvvvvvvv.extractLsb' 0 4) x)) ∧
    (l.speedSteps = 2 → (l.rvvvvvvv.extractLsb' 0 7).toNat ≤ 29 →
      speedPacket a l =
        packetBytes
          (.dccSpeed28 a (l.rvvvvvvv.getLsbD 7)
            (if l.rvvvvvvv.extractLsb' 0 7 = 0 then 0
              else if l.rvvvvvvv.extractLsb' 0 7 = 1 then 2 else l.rvvvvvvv.extractLsb' 0 5 + 2) x)) ∧
    (l.speedSteps = 4 →
      speedPacket a l = packetBytes (.dccSpeed128 a (l.rvvvvvvv.getLsbD 7) (l.rvvvvvvv.extractLsb' 0 7) x)) ∧
    xorAll (speedPacket a l) = 0) ∧
  (∀ (a : Addr) (l : Loco), a.toNat ≤ 10239 →
    (∀ g, xorAll (fgPacket a l g) = 0) ∧
    (∃ x, fgPacket a l .fg1 = packetBytes (.dccFg1 a (l.f31_0.extractLsb' 0 5) x)) ∧
    (∃ x, fgPacket a l .fg2a = packetBytes (.dccFg2a a (l.f31_0.extractLsb' 5 4) x)) ∧
    (∃ x, fgPacket a l .fg2b = packetBytes (.dccFg2b a (l.f31_0.extractLsb' 9 4) x)) ∧
    (∃ x, fgPacket a l .fg3 = packetBytes (.dccFg3 a (l.f31_0.extractLsb' 13 8) x)) ∧
    (∃ x, fgPacket a l .fg4 = packetBytes (.dccFg4 a (l.f31_0.extractLsb' 21 8) x)) ∧
    ∃ x, fgPacket a l .fg5 = packetBytes (.dccFg5 a (l.f31_0.extractLsb' 29 3) x)) ∧
  (∀ e : PomReq, e.addr.toNat ≤ 10239 →
    xorAll (pomPacket e) = 0 ∧
    (e.op = .read → ∃ x, pomPacket e = packetBytes (.dccPomRead e.addr e.cvi x)) ∧
    (e.op = .write → ∃ x, pomPacket e = packetBytes (.dccPomWrite e.addr e.cvi e.data x))) ∧
  ∀ (k : Cvi) (d : Byte) (v : Bool) (i : BitVec 3),
    (∃ x, svcVerifyByte k d = packetBytes (.dccSvcVerifyByte k d x) ∧ xorAll (svcVerifyByte k d) = 0) ∧
    (∃ x, svcWriteByte k d = packetBytes (.dccSvcWriteByte k d x) ∧ xorAll (svcWriteByte k d) = 0) ∧
    (∃ x, svcVerifyBit k v i.toNat = packetBytes (.dccSvcVerifyBit k v i x) ∧ xorAll (svcVerifyBit k v i.toNat) = 0) ∧
    idlePacket = packetBytes .dccIdle ∧ xorAll idlePacket = 0 ∧ resetPacket = packetBytes .dccReset ∧ xorAll resetPacket = 0

/-- R307: the lengths of the built packets for short and for long addresses, and that each fits `DCC_MAX_PACKET` and is
checksum-valid (R132). -/
def Obligations.BuiltPacketLengths : Prop :=
  (∀ (a : Addr) (l : Loco), 1 ≤ a.toNat → a.toNat ≤ 10239 →
    ((l.speedSteps = 0 ∨ l.speedSteps = 2) → (speedPacket a l).length = if a.toNat ≤ 127 then 3 else 4) ∧
    (l.speedSteps = 4 → (speedPacket a l).length = if a.toNat ≤ 127 then 4 else 5) ∧
    (∀ g, g = .fg1 ∨ g = .fg2a ∨ g = .fg2b → (fgPacket a l g).length = if a.toNat ≤ 127 then 3 else 4) ∧
    (∀ g, g = .fg3 ∨ g = .fg4 ∨ g = .fg5 → (fgPacket a l g).length = if a.toNat ≤ 127 then 4 else 5) ∧
    packetOk (speedPacket a l) = true ∧ ∀ g, packetOk (fgPacket a l g) = true) ∧
  (∀ e : PomReq, 1 ≤ e.addr.toNat → e.addr.toNat ≤ 10239 →
    ((pomPacket e).length = if e.addr.toNat ≤ 127 then 5 else 6) ∧ packetOk (pomPacket e) = true) ∧
  (∀ (k : Cvi) (d : Byte) (v : Bool) (i : Nat),
    (svcVerifyByte k d).length = 4 ∧ (svcWriteByte k d).length = 4 ∧ (svcVerifyBit k v i).length = 4 ∧
    packetOk (svcVerifyByte k d) = true ∧ packetOk (svcWriteByte k d) = true ∧ packetOk (svcVerifyBit k v i) = true) ∧
  idlePacket.length = 3 ∧ resetPacket.length = 3 ∧ packetOk idlePacket = true ∧ packetOk resetPacket = true

/-- R308 against R300: a packet built for a loco is attributed to that loco. -/
def Obligations.BuiltPacketsNameTheirLoco : Prop :=
  (∀ (a : Addr) (l : Loco) (g : Group), 1 ≤ a.toNat → a.toNat ≤ 10239 →
    dccAddress (speedPacket a l) = some a ∧ dccAddress (fgPacket a l g) = some a) ∧
  (∀ e : PomReq, 1 ≤ e.addr.toNat → e.addr.toNat ≤ 10239 → dccAddress (pomPacket e) = some e.addr) ∧
  dccAddress idlePacket = none ∧ dccAddress resetPacket = none

/-- R354 and R88, the whole `D_SELECT` step: the head of `FRONTQ`, else the head of `BACKQ`, else the filler of the mode is taken, and
exactly its bytes are sent, whatever row they decode to and where they are no row at all (R143). -/
def Obligations.SelectedPacketIsSentVerbatim : Prop :=
  ∀ (s : State) (rest : List Move) (ok : Bool) (m : Mode) (t : DccTiming) (e : Packet),
    NextIs s (.dccdrv ok) rest → s.dcc.phase = .dSelect → s.dcc.mode = some m →
    dccTiming Config.params m s.dcc.bidiOn s.act = some t →
    (s.frontq.head? = some e ∨ (s.frontq = [] ∧ s.backq.head? = some e) ∨
      (s.frontq = [] ∧ s.backq = [] ∧ m = .dccService ∧ e = { bytes := [0x00, 0x00, 0x00] }) ∨
      (s.frontq = [] ∧ s.backq = [] ∧ m ≠ .dccService ∧ e = { bytes := [0xFF, 0x00, 0xFF] })) →
    step s =
      .next
        { took rest s with
          frontq := s.frontq.drop 1
          backq := if s.frontq = [] then s.backq.drop 1 else s.backq
          track := s.track ++ (dccSymbols t e.bytes).map fun x => (m, x)
          dcc := { s.dcc with cur := some e, txEnd := s.now + dccDuration t e.bytes, phase := .dTx } }

/-- Every step keeps every DCC packet that is queued, waits, is sent or is repeated a checksum-valid one of 3 to 6 bytes (R30, R132,
R247). -/
def Obligations.PacketInvKept : Prop :=
  ∀ s t : State, PacketInv s → step s = .next t → PacketInv t

/-- Every step keeps every queue within its capacity (R30 to R36, R93). -/
def Obligations.QueueInvKept : Prop :=
  ∀ s t : State, QueueInv Config.params s → step s = .next t → QueueInv Config.params t

/-! ### Drivers -/

/-- R213, the idle step of a resumed driver: it starts in the mode that `STATE` holds where that is its own; from `Suspend` it clears
its queues and writes `Suspended`; from `ShortCircuit` it clears its queues. -/
def Obligations.DriverIdleStep : Prop :=
  ∀ (s : State) (rest : List Move) (ok : Bool),
    (NextIs s (.dccdrv ok) rest → s.dcc.phase = .dIdle → s.dcc.resume = true →
      (∀ m, m = .dccOperations ∨ m = .dccService → s.arbState = modeValue m →
        step s = .next { took rest s with dcc := { s.dcc with resume := false, mode := some m, phase := .dInit } }) ∧
      (s.arbState = 0x0002#16 →
        step s =
          .next
            { took rest s with
              dcc := { s.dcc with resume := false }
              frontq := [], backq := [], feedbackq := [], ackbuf := none, arbState := 0x0001#16 }) ∧
      (s.arbState = 0x0004#16 →
        step s =
          .next
            { took rest s with
              dcc := { s.dcc with resume := false }
              frontq := [], backq := [], feedbackq := [], ackbuf := none })) ∧
    (NextIs s (.decupdrv ok) rest → s.decup.phase = .uIdle → s.decup.resume = true →
      (∀ m, m = .decupZpp ∨ m = .decupZsu → s.arbState = modeValue m →
        step s = .next { took rest s with decup := { s.decup with resume := false, mode := some m, phase := .uInit } }) ∧
      (s.arbState = 0x0002#16 →
        step s =
          .next
            { took rest s with
              decup := { s.decup with resume := false }, decupInq := [], decupReply := [], arbState := 0x0001#16 }) ∧
      (s.arbState = 0x0004#16 →
        step s =
          .next { took rest s with decup := { s.decup with resume := false }, decupInq := [], decupReply := [] })) ∧
    (NextIs s (.mdudrv ok) rest → s.mdu.phase = .mIdle → s.mdu.resume = true →
      (∀ m, m = .mduZpp ∨ m = .mduZsu → s.arbState = modeValue m →
        step s = .next { took rest s with mdu := { s.mdu with resume := false, mode := some m, phase := .mInit } }) ∧
      (s.arbState = 0x0002#16 →
        step s =
          .next
            { took rest s with
              mdu := { s.mdu with resume := false }, mduInq := [], mduReply := [], arbState := 0x0001#16 }) ∧
      (s.arbState = 0x0004#16 →
        step s = .next { took rest s with mdu := { s.mdu with resume := false }, mduInq := [], mduReply := [] }))

/-- R351 and R504, the init step of DCCDRV: with every needed setting written and the draw true, `ACT` is a copy of `CFG`, the current
limit is the mode's, the receiver and the cutout are reset, and in `DCCService` the ACK detector starts with an empty window; a
setting that is missing or a draw that is false sets `FATAL` and changes nothing else (which of the two wins where both hold is not
said here, log 30). -/
def Obligations.DccInitStep : Prop :=
  ∀ (s : State) (rest : List Move) (ok : Bool) (m : Mode),
    NextIs s (.dccdrv ok) rest → s.dcc.phase = .dInit → s.dcc.mode = some m → m = .dccOperations ∨ m = .dccService →
    (∀ lim : Byte, getSetting s.cfg (if m = .dccService then .currentLimitService else .currentLimit) = some lim →
      settingsPresent s.cfg (settingsNeeded m) = true → ok = true →
      step s =
        .next
          { took rest s with
            act := s.cfg
            curLim := lim.setWidth 2
            uartFifo := []
            notify := { pending := false, val := 0 }
            bidiEn := true
            cutout := { s.cutout with phase := .cOff }
            svcack :=
              if m = .dccService then
                { s.svcack with phase := .aIdle, win := [], sum := 0, zeros := 0, ackSeen := false }
              else s.svcack
            dcc :=
              { s.dcc with
                bidiOn := decide (m = .dccOperations ∧ s.cfg.bidiBitDuration ≠ some 0)
                phase := .dCheck } }) ∧
    (settingsPresent s.cfg (settingsNeeded m) = true → ok = false →
      step s =
        .next
          { took rest s with
            fatal := some { cls := .hwFail, agent := .dccdrv, step := .dccdrv .dInit } }) ∧
    (settingsPresent s.cfg (settingsNeeded m) = false → ok = true →
      step s =
        .next
          { took rest s with
            fatal := some { cls := .uninitSetting, agent := .dccdrv, step := .dccdrv .dInit } })

/-- R353, R358, R208 and R504: DCCDRV's check sends it to its teardown under `Suspend` and `ShortCircuit`, on to the next packet in its
mode, and to the fault `ARB_INVARIANT` under any other `STATE`; the teardown discards queues and feedback, releases the line, stops the
detector, writes `Suspended` after `Suspend` and leaves `ShortCircuit` as it is; with a draw that is false it sets `FATAL` to `HWFAIL` and
changes nothing else. -/
def Obligations.DccCheckAndTeardown : Prop :=
  ∀ (s : State) (rest : List Move) (ok : Bool), NextIs s (.dccdrv ok) rest →
    (s.dcc.phase = .dCheck →
      (s.arbState = 0x0002#16 ∨ s.arbState = 0x0004#16 →
        step s = .next { took rest s with dcc := { s.dcc with phase := .dTeardown } }) ∧
      (∀ m, s.dcc.mode = some m → s.arbState = modeValue m →
        step s = .next { took rest s with dcc := { s.dcc with phase := .dSelect } }) ∧
      (∀ m, s.dcc.mode = some m → s.arbState ≠ 0x0002#16 → s.arbState ≠ 0x0004#16 → s.arbState ≠ modeValue m →
        step s =
          .next { took rest s with fatal := some { cls := .arbInvariant, agent := .dccdrv, step := .dccdrv .dCheck } })) ∧
    (s.dcc.phase = .dTeardown → ok = false → s.arbState = 0x0002#16 ∨ s.arbState = 0x0004#16 →
      step s = .next { took rest s with fatal := some { cls := .hwFail, agent := .dccdrv, step := .dccdrv .dTeardown } }) ∧
    (s.dcc.phase = .dTeardown → ok = true → s.arbState = 0x0002#16 ∨ s.arbState = 0x0004#16 →
      step s =
        .next
          { took rest s with
            frontq := [], backq := [], feedbackq := [], ackbuf := none, uartFifo := []
            notify := { pending := false, val := 0 }
            bidiEn := true
            cutout := { s.cutout with phase := .cOff }
            svcack := { s.svcack with phase := .aOff }
            arbState := if s.arbState = 0x0002#16 then 0x0001#16 else 0x0004#16
            dcc := { s.dcc with mode := none, cur := none, bidiOn := false, phase := .dIdle } })

/-- R355, R462 and R464, the step at the end of a transmission: not before `tx_end` (there the state stays, log 2); outside `A_OFF`
a `FIRST` tag takes the reference and arms the detector, and an `END` tag then stores the ack bit of an armed one; with BiDi the
cutout starts at this instant, else the next check follows. -/
def Obligations.TxDoneStep : Prop :=
  ∀ (s : State) (rest : List Move) (ok : Bool) (p : Packet),
    NextIs s (.dccdrv ok) rest → s.dcc.phase = .dTx → s.dcc.cur = some p →
    (s.now < s.dcc.txEnd → step s = .next (took rest s)) ∧
    (s.dcc.txEnd ≤ s.now → cutoutDue Config.params s = false →
      step s =
        .next
          { took rest s with
            ackbuf :=
              if s.svcack.phase ≠ .aOff ∧ p.last = true ∧ (p.first = true ∨ s.svcack.phase = .aArmed) then
                some (if p.first then false else s.svcack.ackSeen)
              else s.ackbuf
            svcack :=
              if s.svcack.phase = .aOff then s.svcack
              else
                { s.svcack with
                  ref := if p.first then some s.svcack.sum else s.svcack.ref
                  ackSeen := if p.first then false else s.svcack.ackSeen
                  phase := if p.last then .aIdle else if p.first then .aArmed else s.svcack.phase }
            cutout := if s.dcc.bidiOn then { s.cutout with t0 := s.now, phase := .cWaitTcs } else s.cutout
            dcc := { s.dcc with phase := if s.dcc.bidiOn then .dCutoutWait else .dCheck } })

/-- R361, R362 and R363: the three alarms of the cutout, each at its exact instant after the end of the transmission. TCS mutes the
main driver; TS2 samples whether a byte has come; TCE releases the line and notifies the driver which channels were present. -/
def Obligations.CutoutAlarms : Prop :=
  ∀ (s : State) (rest : List Move), NextIs s .cutout rest →
    (s.cutout.phase = .cWaitTcs → s.now = s.cutout.t0 + Config.params.tTcs →
      step s = .next { took rest s with bidiEn := false, cutout := { s.cutout with phase := .cWaitTs2 } }) ∧
    (s.cutout.phase = .cWaitTs2 → s.now = s.cutout.t0 + Config.params.tTs2 →
      step s =
        .next
          { took rest s with
            cutout :=
              { s.cutout with ts2Len := s.uartFifo.length, ch1 := decide (0 < s.uartFifo.length), phase := .cWaitTce } }) ∧
    (s.cutout.phase = .cWaitTce → s.now = s.cutout.t0 + Config.params.tTce →
      ∃ v : BitVec 2,
        v.getLsbD 0 = s.cutout.ch1 ∧ v.getLsbD 1 = decide (s.cutout.ts2Len < s.uartFifo.length) ∧
        step s =
          .next
            { took rest s with
              bidiEn := true
              notify := { pending := true, val := v }
              cutout := { s.cutout with phase := .cOff } })

/-- R370, R356 and R357: a received byte is kept only with BiDi on, in the cutout and with space, and is lost else; the driver waits
for the notification (held, log 2) and then captures; the capture reads up to 8 bytes from channel 1 on, or up to 6 of channel 2, or
nothing, pads them with zeros, forwards them with the packet where there is space, and clears the receiver. -/
def Obligations.UartGateAndCapture : Prop :=
  (∀ (s : State) (rest : List Move) (b : Byte), NextIs s (.uart b) rest → class3May Config.params s = true →
    step s =
      .next
        (if s.dcc.bidiOn = true ∧ s.bidiEn = false ∧ s.uartFifo.length < Config.params.uartFifoSize then
          { took rest s with uartFifo := s.uartFifo ++ [b] }
        else took rest s)) ∧
  (∀ (s : State) (rest : List Move) (ok : Bool), NextIs s (.dccdrv ok) rest → s.dcc.phase = .dCutoutWait →
    (s.notify.pending = true → step s = .next { took rest s with dcc := { s.dcc with phase := .dCapture } }) ∧
    (s.notify.pending = false → step s = .next (took rest s))) ∧
  ∀ (s : State) (rest : List Move) (ok : Bool) (p : Packet),
    NextIs s (.dccdrv ok) rest → s.dcc.phase = .dCapture → s.dcc.cur = some p →
    ∃ f : Option Feedback,
      (f = none ↔ s.notify.val = 0) ∧
      (∀ e, f = some e →
        e.pkt = p.bytes ∧ e.dg.length = 8 ∧
        (s.notify.val.getLsbD 0 = true →
          e.n1 + e.n2 = min s.uartFifo.length 8 ∧ e.n1 = min s.uartFifo.length 2 ∧
          e.dg.take (e.n1 + e.n2) = s.uartFifo.take 8 ∧ ∀ x ∈ e.dg.drop (e.n1 + e.n2), x = 0) ∧
        (s.notify.val = 2 →
          e.n1 = 0 ∧ e.n2 = min s.uartFifo.length 6 ∧ e.dg.take 2 = [0, 0] ∧
          (e.dg.drop 2).take e.n2 = s.uartFifo.take 6 ∧ ∀ x ∈ e.dg.drop (2 + e.n2), x = 0)) ∧
      step s =
        .next
          { took rest s with
            feedbackq :=
              if s.feedbackq.length < Config.params.feedbackCap then s.feedbackq ++ f.toList else s.feedbackq
            notify := { pending := false, val := 0 }
            uartFifo := []
            dcc := { s.dcc with phase := .dCheck } }

/-- R380 to R384 and R150 to R152: channel 2 without data, or with a byte whose popcount is not 4, gives no datagram; a sequence of
datagrams in the code of `BIDI_DECODE`, with either `ACK` byte anywhere between them, is read back as those datagrams in order, up to where the
parse ends: at the end of channel 2, at `NACK`, `BUSY` or a reserved byte, at a symbol of any id other than 0 and 7, or where a
datagram's second or third symbol does not follow. What stands behind that place is not read, whatever it is, and what was read before it
stays. It holds of every legal parameter set and so of every table that `BIDI_DECODE` may be, the default table of R150 among them;
`enc n` is the byte that carries the data value `n` in that table. -/
def Obligations.DatagramParse : Prop :=
  ∀ (P : Params) (enc : BitVec 6 → Byte), P.Legal → (∀ n, P.bidiDecode (enc n) = .data n) →
  (∀ f : Feedback, (∀ b ∈ (f.dg.drop 2).take f.n2, b = 0) → feedbackInstrs P f = []) ∧
  (∀ f : Feedback, (∃ b ∈ (f.dg.drop 2).take f.n2, popcount b ≠ 4) → feedbackInstrs P f = []) ∧
  ∀ (f : Feedback) (items : List (Byte ⊕ Instr)) (stop : List Byte),
    (∀ b, .inl b ∈ items → b = 0x0F#8 ∨ b = 0xF0#8) →
    (∀ i, .inr i ∈ items → (datagramSymbols i).isSome = true) →
    ParseEnd enc stop →
    (f.dg.drop 2).take f.n2 =
      (items.flatMap fun x =>
        match x with
        | .inl b => [b]
        | .inr i => ((datagramSymbols i).getD []).map enc) ++ stop →
    feedbackInstrs P f = items.filterMap Sum.getRight?

/-- R385 and R386, the two datagrams. `app:pom` answers and pops the POM request at the front of its deque where that was sent and the
feedback is of its packet, and does nothing else. `app:dyn` writes the RailCom fields of the loco the packet was for, where there is
one and the subindex is 0, 1 or 7, and does nothing else. -/
def Obligations.DatagramEffects : Prop :=
  (∀ (v : Byte) (s : State),
    (∀ e more, s.cvpom = e :: more → e.sent = true → s.rxPkt = pomPacket e →
      exec (.bidiAppPom v) s =
        .next { s with cvpom := more, events := s.events ++ [eventWord 0x01#8 e.addr e.cvi v] }) ∧
    ((∀ e more, s.cvpom = e :: more → e.sent = true → s.rxPkt ≠ pomPacket e) → exec (.bidiAppPom v) s = .next s)) ∧
  ∀ (dv : Byte) (x : BitVec 6) (s : State),
    (∀ a l, dccAddress s.rxPkt = some a → locoGet a s.locos = some l → x = 0 ∨ x = 1 ∨ x = 7 →
      exec (.bidiAppDyn dv x) s =
        .next
          { s with
            locos :=
              locoPut a
                (if x = 0 then { l with rcSpeed := dv.setWidth 16, rcOptions := l.rcOptions ||| 0x01 }
                else if x = 1 then { l with rcSpeed := dv.setWidth 16 + 256, rcOptions := l.rcOptions ||| 0x02 }
                else { l with rcQos := dv, rcOptions := l.rcOptions ||| 0x04 })
                s.locos
            events := s.events ++ [eventWord 0x05#8 a 0 0] }) ∧
    ((dccAddress s.rxPkt = none ∨ (∀ a, dccAddress s.rxPkt = some a → locoGet a s.locos = none) ∨
        (x ≠ 0 ∧ x ≠ 1 ∧ x ≠ 7)) →
      exec (.bidiAppDyn dv x) s = .next s)

/-- R401, R403, R404 and R410, a session of DECUPDRV: init with a fresh latch and a cleared detector, check, the three conditions of
the wait in their order, and the teardown with its terminal write (R208). A setting that is missing, a draw that is false in the init or
the teardown, and a `STATE` that the check finds foreign set `FATAL` and change nothing else (R504; where a missing setting and a false
draw meet: log 30). -/
def Obligations.DecupSession : Prop :=
  ∀ (s : State) (rest : List Move) (ok : Bool) (m : Mode), NextIs s (.decupdrv ok) rest → s.decup.mode = some m →
    (s.decup.phase = .uInit → s.cfg.currentLimit = none → ok = true →
      step s = .next { took rest s with fatal := some { cls := .uninitSetting, agent := .decupdrv, step := .decupdrv .uInit } }) ∧
    (∀ lim : Byte, s.decup.phase = .uInit → s.cfg.currentLimit = some lim → ok = false →
      step s = .next { took rest s with fatal := some { cls := .hwFail, agent := .decupdrv, step := .decupdrv .uInit } }) ∧
    (s.decup.phase = .uCheck → s.arbState ≠ 0x0002#16 → s.arbState ≠ 0x0004#16 → s.arbState ≠ modeValue m →
      step s =
        .next { took rest s with fatal := some { cls := .arbInvariant, agent := .decupdrv, step := .decupdrv .uCheck } }) ∧
    (s.decup.phase = .uTeardown → s.arbState = 0x0002#16 ∨ s.arbState = 0x0004#16 ∨ s.arbState = modeValue m → ok = false →
      step s = .next { took rest s with fatal := some { cls := .hwFail, agent := .decupdrv, step := .decupdrv .uTeardown } }) ∧
    (∀ lim : Byte, s.decup.phase = .uInit → s.cfg.currentLimit = some lim → ok = true →
      step s =
        .next
          { took rest s with
            act := s.cfg
            curLim := lim.setWidth 2
            decup :=
              { s.decup with
                edges := 0, raw := 0, idKnown := false, exitTimeout := false, phase := .uCheck
                idleDeadline := s.now + Config.params.sessionTimeoutDecup } }) ∧
    (s.decup.phase = .uCheck → s.arbState = 0x0002#16 ∨ s.arbState = 0x0004#16 →
      step s = .next { took rest s with decup := { s.decup with phase := .uTeardown } }) ∧
    (s.decup.phase = .uCheck → s.arbState = modeValue m →
      step s = .next { took rest s with decup := { s.decup with phase := .uWaitPkt } }) ∧
    (s.decup.phase = .uWaitPkt → s.arbState ≠ modeValue m →
      step s = .next { took rest s with decup := { s.decup with phase := .uCheck } }) ∧
    (∀ pkt more, s.decup.phase = .uWaitPkt → s.arbState = modeValue m → s.decupInq = pkt :: more →
      step s =
        .next
          { took rest s with
            decupInq := more
            track := s.track ++ (Config.params.decupSymbols pkt).map fun x => (m, x)
            decup :=
              { s.decup with
                cur := some pkt, phase := .uTx
                txEnd :=
                  s.now + ((Config.params.decupSymbols pkt).map fun x => x.d0.toNat + x.d1.toNat).sum } }) ∧
    (s.decup.phase = .uWaitPkt → s.arbState = modeValue m → s.decupInq = [] → s.decup.idleDeadline ≤ s.now →
      step s = .next { took rest s with decup := { s.decup with exitTimeout := true, phase := .uTeardown } }) ∧
    (s.decup.phase = .uTeardown → s.arbState = 0x0002#16 ∨ s.arbState = 0x0004#16 ∨ s.arbState = modeValue m → ok = true →
      step s =
        .next
          { took rest s with
            decupInq := [], decupReply := []
            arbState := if s.arbState = 0x0004#16 then 0x0004#16 else 0x0001#16
            decup :=
              { s.decup with
                edges := 0, raw := 0, idKnown := false, mode := none, cur := none, exitTimeout := false
                phase := .uIdle } })

/-- R431, R433, R435, R437 and R438, a session of MDUDRV: as that of DECUPDRV, with the three settings it needs, the default rate at
init and at the teardown, the timer base at a packet's first symbol, and the evaluation after its last; and with the same faults. -/
def Obligations.MduSession : Prop :=
  ∀ (s : State) (rest : List Move) (ok : Bool) (m : Mode), NextIs s (.mdudrv ok) rest → s.mdu.mode = some m →
    (s.mdu.phase = .mInit → s.cfg.mduPreamble = none ∨ s.cfg.mduAckreq = none ∨ s.cfg.currentLimit = none → ok = true →
      step s = .next { took rest s with fatal := some { cls := .uninitSetting, agent := .mdudrv, step := .mdudrv .mInit } }) ∧
    (∀ pre ackreq lim : Byte, s.mdu.phase = .mInit → s.cfg.mduPreamble = some pre → s.cfg.mduAckreq = some ackreq →
      s.cfg.currentLimit = some lim → ok = false →
      step s = .next { took rest s with fatal := some { cls := .hwFail, agent := .mdudrv, step := .mdudrv .mInit } }) ∧
    (s.mdu.phase = .mCheck → s.arbState ≠ 0x0002#16 → s.arbState ≠ 0x0004#16 → s.arbState ≠ modeValue m →
      step s = .next { took rest s with fatal := some { cls := .arbInvariant, agent := .mdudrv, step := .mdudrv .mCheck } }) ∧
    (s.mdu.phase = .mTeardown → s.arbState = 0x0002#16 ∨ s.arbState = 0x0004#16 ∨ s.arbState = modeValue m → ok = false →
      step s = .next { took rest s with fatal := some { cls := .hwFail, agent := .mdudrv, step := .mdudrv .mTeardown } }) ∧
    (∀ pre ackreq lim : Byte, s.mdu.phase = .mInit → s.cfg.mduPreamble = some pre → s.cfg.mduAckreq = some ackreq →
      s.cfg.currentLimit = some lim → ok = true →
      step s =
        .next
          { took rest s with
            act := s.cfg
            curLim := lim.setWidth 2
            mdu :=
              { s.mdu with
                rate := Config.params.mduDefaultRate, capture := none, exitTimeout := false, phase := .mCheck
                idleDeadline := s.now + Config.params.sessionTimeoutMdu } }) ∧
    (s.mdu.phase = .mCheck → s.arbState = 0x0002#16 ∨ s.arbState = 0x0004#16 →
      step s = .next { took rest s with mdu := { s.mdu with phase := .mTeardown } }) ∧
    (s.mdu.phase = .mCheck → s.arbState = modeValue m →
      step s = .next { took rest s with mdu := { s.mdu with phase := .mWaitPkt } }) ∧
    (s.mdu.phase = .mWaitPkt → s.arbState ≠ modeValue m →
      step s = .next { took rest s with mdu := { s.mdu with phase := .mCheck } }) ∧
    (∀ (pkt : List Byte) (more : List (List Byte)) (pre ackreq : Byte) (syms : List Symbol),
      s.mdu.phase = .mWaitPkt → s.arbState = modeValue m → s.mduInq = pkt :: more →
      s.act.mduPreamble = some pre → s.act.mduAckreq = some ackreq →
      syms = Config.params.mduSymbols pkt pre ackreq (Config.params.mduRates s.mdu.rate) →
      step s =
        .next
          { took rest s with
            mduInq := more
            track := s.track ++ syms.map fun x => (m, x)
            mdu :=
              { s.mdu with
                cur := some pkt, capture := none, timerBase := s.now, phase := .mTx
                txEnd := s.now + (syms.map fun x => x.d0.toNat + x.d1.toNat).sum } }) ∧
    (s.mdu.phase = .mWaitPkt → s.arbState = modeValue m → s.mduInq = [] → s.mdu.idleDeadline ≤ s.now →
      step s = .next { took rest s with mdu := { s.mdu with exitTimeout := true, phase := .mTeardown } }) ∧
    (s.mdu.phase = .mTx → s.mdu.txEnd ≤ s.now → cutoutDue Config.params s = false →
      step s = .next { took rest s with mdu := { s.mdu with phase := .mEval } }) ∧
    (s.mdu.phase = .mTeardown → s.arbState = 0x0002#16 ∨ s.arbState = 0x0004#16 ∨ s.arbState = modeValue m → ok = true →
      step s =
        .next
          { took rest s with
            mduInq := [], mduReply := []
            arbState := if s.arbState = 0x0004#16 then 0x0004#16 else 0x0001#16
            mdu :=
              { s.mdu with
                capture := none, rate := Config.params.mduDefaultRate, mode := none, cur := none, exitTimeout := false
                phase := .mIdle } })

/-- R405, R406, R407, R411, R412 and R415, the ACK detection of DECUP: the window opens at the end of the transmission; edges are counted
there, the count saturates at 255, and an edge in any other phase is ignored; the first edge opens the second window and silence gives 0; at its end the count, at most 2,
is taken; after the settle time, with space for the reply, one code goes to the reply queue and to the event port; the consumer takes
the oldest code, and with none it is held (log 2). -/
def Obligations.DecupAckDetection : Prop :=
  (∀ (s : State) (rest : List Move), NextIs s .edge rest → class3May Config.params s = true → s.mdu.phase ≠ .mTx →
    s.decup.phase = .uWin1 ∨ s.decup.phase = .uWin2 →
    step s = .next { took rest s with decup := { s.decup with edges := min (s.decup.edges + 1) 255 } }) ∧
  (∀ (s : State) (rest : List Move), NextIs s .edge rest → s.decup.phase ≠ .uWin1 → s.decup.phase ≠ .uWin2 →
    (∃ t, step s = .next t ∧ t.decup = s.decup) ∧ (s.mdu.phase ≠ .mTx → step s = .next (took rest s))) ∧
  (∀ (s : State) (rest : List Move), NextIs s .replyDecup rest →
    (∀ c more, s.decupReply = c :: more → step s = .next { took rest s with decupReply := more }) ∧
    (s.decupReply = [] → step s = .next (took rest s))) ∧
  ∀ (s : State) (rest : List Move) (ok : Bool) (m : Mode) (pkt : List Byte),
    NextIs s (.decupdrv ok) rest → s.decup.mode = some m → s.decup.cur = some pkt →
    cutoutDue Config.params s = false →
    (s.decup.phase = .uTx → s.decup.txEnd ≤ s.now →
      step s =
        .next
          { took rest s with
            decup :=
              { s.decup with
                edges := 0
                winDeadline := s.now + (if Config.params.decupIsData m pkt then 100000 else 5000)
                phase := .uWin1 } }) ∧
    (class2Due s = false →
      (s.decup.phase = .uWin1 → 1 ≤ s.decup.edges →
        step s =
          .next { took rest s with polled := true, decup := { s.decup with t2 := s.now + 200, phase := .uWin2 } }) ∧
      (s.decup.phase = .uWin1 → s.decup.edges = 0 → s.decup.winDeadline ≤ s.now →
        step s =
          .next
            { took rest s with
              polled := true, decup := { s.decup with raw := 0, settleEnd := s.now + 100, phase := .uSettle } }) ∧
      (s.decup.phase = .uWin2 → s.decup.t2 ≤ s.now →
        step s =
          .next
            { took rest s with
              polled := true
              decup := { s.decup with raw := min s.decup.edges 2, settleEnd := s.now + 100, phase := .uSettle } }) ∧
      (s.decup.phase = .uSettle → s.decup.settleEnd ≤ s.now → s.decupReply.length < Config.params.replyCap →
        ∀ code, code = Config.params.decupWorkaround m pkt s.decup.idKnown s.decup.raw →
          step s =
            .next
              { took rest s with
                polled := true
                decupReply := s.decupReply ++ [BitVec.ofNat 8 code]
                events := s.events ++ [eventWord 0x07#8 0 0 (BitVec.ofNat 8 code)]
                decup :=
                  { s.decup with
                    idKnown := Config.params.decupIdUpdate m pkt s.decup.idKnown code
                    cur := none
                    idleDeadline := s.now + Config.params.sessionTimeoutDecup
                    phase := .uCheck } }))

/-- R436, R439, R441 and R442, the ACK detection of MDU: the first edge of a packet is captured as the time since its first symbol, where
that fits the 32 bits of the register (beyond, log 22), and an edge outside `M_TX` is ignored; at the evaluation, with space for the reply, no capture is code 0, the nearer
of the two expected counts is 1 (short, also on a tie) or 2 (long), the code goes to the reply queue and to the event port, and a
`ConfigTransferRate` packet sets the rate; the consumer takes the oldest code, and with none it is held (log 2). -/
def Obligations.MduAckDetection : Prop :=
  (∀ (s : State) (rest : List Move), NextIs s .edge rest → class3May Config.params s = true →
    s.decup.phase ≠ .uWin1 → s.decup.phase ≠ .uWin2 → s.mdu.phase = .mTx → s.now - s.mdu.timerBase < 2 ^ 32 →
    step s =
      .next
        { took rest s with
          mdu :=
            { s.mdu with
              capture :=
                match s.mdu.capture with
                | some c => some c
                | none => some (BitVec.ofNat 32 (s.now - s.mdu.timerBase)) } }) ∧
  (∀ (s : State) (rest : List Move), NextIs s .edge rest → s.mdu.phase ≠ .mTx →
    ∃ t, step s = .next t ∧ t.mdu = s.mdu ∧ { t with decup := s.decup } = took rest s) ∧
  (∀ (s : State) (rest : List Move), NextIs s .replyMdu rest →
    (∀ c more, s.mduReply = c :: more → step s = .next { took rest s with mduReply := more }) ∧
    (s.mduReply = [] → step s = .next (took rest s))) ∧
  ∀ (s : State) (rest : List Move) (ok : Bool) (pkt : List Byte) (pre ackreq : Byte) (code : Byte),
    NextIs s (.mdudrv ok) rest → s.mdu.phase = .mEval → s.mdu.cur = some pkt →
    s.act.mduPreamble = some pre → s.act.mduAckreq = some ackreq →
    cutoutDue Config.params s = false → class2Due s = false → s.mduReply.length < Config.params.replyCap →
    (s.mdu.capture = none ∧ code = 0 ∨
      ∃ (c : BitVec 32) (short long : Nat), s.mdu.capture = some c ∧
        Config.params.mduExpectedCounts pkt pre ackreq (Config.params.mduRates s.mdu.rate) = (short, long) ∧
        code = if ((c.toNat : Int) - short).natAbs ≤ ((c.toNat : Int) - long).natAbs then 1 else 2) →
    step s =
      .next
        { took rest s with
          polled := true
          mduReply := s.mduReply ++ [code]
          events := s.events ++ [eventWord 0x08#8 0 0 code]
          mdu :=
            { s.mdu with
              rate :=
                if Config.params.mduIsCtr pkt = true then
                  (if code = 0 then Config.params.mduCtrRate pkt else Config.params.mduFallbackRate)
                else s.mdu.rate
              cur := none
              capture := none
              idleDeadline := s.now + Config.params.sessionTimeoutMdu
              phase := .mCheck } }

/-- R461 and R463: a sample outside service mode is ignored; else the window keeps the last 200 samples, its sum and its zeros; while
armed and with a full window the pulse test is strict in both comparisons and its result is kept. -/
def Obligations.AckDetection : Prop :=
  ∀ (s : State) (rest : List Move) (x : BitVec 16) (win : List (BitVec 16)),
    NextIs s (.sample x) rest → class3May Config.params s = true →
    win = (s.svcack.win ++ [x]).drop (s.svcack.win.length + 1 - 200) →
    (s.svcack.phase = .aOff → step s = .next (took rest s)) ∧
    (s.svcack.phase = .aIdle ∨ (s.svcack.phase = .aArmed ∧ win.length ≠ 200) →
      step s =
        .next
          { took rest s with
            svcack :=
              { s.svcack with
                win := win, sum := (win.map BitVec.toNat).sum, zeros := (win.filter fun y => y == 0).length } }) ∧
    ∀ (ref : Nat) (cur : Byte), s.svcack.phase = .aArmed → win.length = 200 → s.svcack.ref = some ref →
      s.act.programmingAckCurrent = some cur →
      step s =
        .next
          { took rest s with
            svcack :=
              { s.svcack with
                win := win, sum := (win.map BitVec.toNat).sum, zeros := (win.filter fun y => y == 0).length
                ackSeen :=
                  s.svcack.ackSeen ||
                    decide
                      (ref + 200 * cur.toNat < (win.map BitVec.toNat).sum ∧
                        10 * (win.filter fun y => y == 0).length < 200) } }

/-- Every step keeps the detectors in their ranges: the DECUP edge counter within 255, the raw count within 2 and every ack code of
DECUP and of MDU within 0, 1, 2 (R406, R413, R434); the window of the service detector within 200 samples, and its sum and its zeros
those of the window (R40, R461, R466). -/
def Obligations.DetectorInvKept : Prop :=
  (∀ s t : State, CodeInv s → step s = .next t → CodeInv t) ∧ ∀ s t : State, AckInv s → step s = .next t → AckInv t

/-! ### The scheduler -/

/-- R254 to R261, the operations loop. `IDLE` leaves for the loop of the mode that `STATE` holds and is held else (log 2); the fill is
skipped with less than half of `BACKQ` free; with no loco it pushes idle packets, and with less than a quarter free neither fill nor
loco pushes; a loco that was erased or whose turn it is not is passed, the pass stops early with less than a quarter free, and else
the loco gets the next packet of its list, built from its record as it stands, and ages after the last; the end of a pass counts up, or
resets the counter and every priority at `MAXP`; a service request switches away, an unsent POM request is sent `POM_REPEAT` times (held
while `FRONTQ` is full, log 2); an expired one is popped and answered, and else the next cycle starts. -/
def Obligations.OperationsLoop : Prop :=
  ∀ (s : State) (rest : List Move) (free : Nat), NextIs s .sched rest → free = Config.params.backCap - s.backq.length →
    (s.sched.phase = .idle →
      (s.arbState = modeValue .dccOperations →
        step s = .next { took rest s with sched := { s.sched with selfSuspend := false, phase := .opsStart } }) ∧
      (s.arbState = modeValue .dccService →
        step s = .next { took rest s with sched := { s.sched with selfSuspend := false, phase := .svcEntry } }) ∧
      (s.arbState ≠ modeValue .dccOperations → s.arbState ≠ modeValue .dccService → step s = .next (took rest s))) ∧
    (s.arbState = modeValue .dccOperations →
      (s.sched.phase = .opsStart →
        (2 * free < Config.params.backCap →
          step s = .next { took rest s with sched := { s.sched with phase := .opsSvc } }) ∧
        (Config.params.backCap ≤ 2 * free →
          (s.locos = [] → step s = .next { took rest s with sched := { s.sched with phase := .opsIdleFill } }) ∧
          ∀ a, locoFirst s.locos = some a →
            step s = .next { took rest s with sched := { s.sched with it := some a, k := 0, phase := .opsLoco } })) ∧
      (s.sched.phase = .opsIdleFill ∨ s.sched.phase = .opsLoco → 4 * free < Config.params.backCap →
        ∃ t, step s = .next t ∧ t.backq = s.backq) ∧
      (s.sched.phase = .opsIdleFill →
        (4 * free < Config.params.backCap →
          step s = .next { took rest s with sched := { s.sched with phase := .opsSvc } }) ∧
        (Config.params.backCap ≤ 4 * free →
          step s = .next { took rest s with backq := s.backq ++ [{ bytes := [0xFF, 0x00, 0xFF] }] })) ∧
      (∀ a, s.sched.phase = .opsLoco → s.sched.it = some a →
        (locoGet a s.locos = none → step s = .next { took rest s with sched := schedPast a s.locos s.sched }) ∧
        ∀ l, locoGet a s.locos = some l →
          (s.sched.k = 0 → s.priorityCount % l.priority ≠ 0 →
            step s = .next { took rest s with sched := schedPast a s.locos s.sched }) ∧
          ((s.sched.k = 0 → s.priorityCount % l.priority = 0) →
            (4 * free < Config.params.backCap →
              step s = .next { took rest s with sched := { s.sched with it := none, k := 0, phase := .opsSvc } }) ∧
            ∀ p, Config.params.backCap ≤ 4 * free → (locoPackets Config.params)[s.sched.k]? = some p →
              step s =
                .next
                  (if s.sched.k + 1 = (locoPackets Config.params).length then
                    { took rest s with
                      backq := s.backq ++ [{ bytes := buildPacket a l p }]
                      locos := locoPut a { l with priority := min (l.priority + 1) Config.params.maxPriority } s.locos
                      sched := schedPast a s.locos s.sched }
                  else
                    { took rest s with
                      backq := s.backq ++ [{ bytes := buildPacket a l p }]
                      sched := { s.sched with k := s.sched.k + 1 } }))) ∧
      (s.sched.phase = .opsPassEnd →
        (Config.params.maxPriority ≤ s.priorityCount + 1 →
          step s =
            .next
              { took rest s with
                priorityCount := 1
                locos := s.locos.map fun e => (e.1, { e.2 with priority := 1 })
                sched := { s.sched with phase := .opsSvc } }) ∧
        (s.priorityCount + 1 < Config.params.maxPriority →
          step s =
            .next { took rest s with priorityCount := s.priorityCount + 1, sched := { s.sched with phase := .opsSvc } })) ∧
      (s.sched.phase = .opsSvc →
        (s.cvsvc ≠ [] → step s = .next { took rest s with sched := { s.sched with phase := .swToSvc } }) ∧
        (∀ e more, s.cvsvc = [] → s.cvpom = e :: more → e.sent = false →
          step s = .next { took rest s with sched := { s.sched with r := 0, phase := .opsPom } }) ∧
        (s.cvsvc = [] → (∀ e more, s.cvpom = e :: more → e.sent = true) →
          step s = .next { took rest s with sched := { s.sched with phase := .opsBidi } })) ∧
      (∀ e more, s.sched.phase = .opsPom → s.cvpom = e :: more →
        (s.sched.r < Config.params.pomRepeat → s.frontq.length < Config.params.frontCap →
          step s =
            .next
              { took rest s with
                frontq := s.frontq ++ [{ bytes := pomPacket e }], sched := { s.sched with r := s.sched.r + 1 } }) ∧
        (s.sched.r < Config.params.pomRepeat → Config.params.frontCap ≤ s.frontq.length → step s = .next (took rest s)) ∧
        (Config.params.pomRepeat ≤ s.sched.r →
          step s =
            .next
              { took rest s with cvpom := { e with sent := true } :: more, sched := { s.sched with phase := .opsBidi } })) ∧
      (s.sched.phase = .opsBidi → s.feedbackq = [] →
        (∀ e more, s.cvpom = e :: more → e.deadline ≤ s.now →
          step s =
            .next { took rest s with cvpom := more, events := s.events ++ [eventWord 0x02#8 e.addr e.cvi 0] }) ∧
        ((∀ e more, s.cvpom = e :: more → s.now < e.deadline) →
          step s = .next { took rest s with sched := { s.sched with phase := .opsStart } })))

/-- R290, the abandon step: in a phase of the operations loop or of the service loop, once `STATE` is no longer the loop's mode, every
queued service request and then every queued POM request is answered in order, with `CV_NACK_SC` after a short circuit and
`CV_NACK` else; the deques and the ack buffer are emptied and SCHED is as after reset. -/
def Obligations.AbandonRule : Prop :=
  ∀ (s : State) (rest : List Move) (ev : Byte), NextIs s .sched rest →
    (s.sched.phase ∈ [.opsStart, .opsIdleFill, .opsLoco, .opsPassEnd, .opsSvc, .opsPom, .opsBidi, .swToSvc] ∧
        s.arbState ≠ modeValue .dccOperations ∨
      s.sched.phase ∈ [.svcEntry, .svcStartReset, .svcNext, .svcRun, .attProg, .attReset, .attWait, .swToOps] ∧
        s.arbState ≠ modeValue .dccService ∨
      s.sched.phase ∈ [.swWaitSvc, .swWaitOps] ∧ s.arbState ≠ 0x0002#16 ∧ s.arbState ≠ 0x0001#16) →
    ev = (if s.arbState = 0x0004#16 then 0x03 else 0x02) →
    step s =
      .next
        { took rest s with
          cvsvc := []
          cvpom := []
          ackbuf := none
          events :=
            s.events ++ s.cvsvc.map (fun e => eventWord ev 0 e.cvi 0) ++ s.cvpom.map fun e => eventWord ev e.addr e.cvi 0
          sched :=
            { phase := .idle, it := none, k := 0, r := 0, selfSuspend := false, req := none, alg := none, v := 0, i := 0,
              acks := 0, b := 0, attPkt := none, waitDeadline := 0, attAck := false } }

/-- R262 to R267, R272, R280 and R281, the service loop: the switches to service mode and back through `Suspend` and `Suspended`, the
entry once the driver has latched its settings, the startup reset packets (held while `BACKQ` is full, log 2), the next request, the
first attempt of each kind of request, and the packets of an attempt with their tags, the program packets first and then the reset
packets, after the last of which the wait begins. That the step which pushes the last packet also changes the phase, and so sets
`wait_deadline` at that instant, is the model's reading of R272 (log 19). -/
def Obligations.ServiceLoop : Prop :=
  ∀ (s : State) (rest : List Move), NextIs s .sched rest →
    (s.sched.phase = .swToSvc → s.arbState = 0x0100#16 →
      step s =
        .next { took rest s with arbState := 0x0002#16, sched := { s.sched with selfSuspend := true, phase := .swWaitSvc } }) ∧
    (s.sched.phase = .swWaitSvc → s.arbState = 0x0001#16 →
      step s =
        .next
          { took rest s with
            arbState := 0x0200#16, dcc := { s.dcc with resume := true }
            sched := { s.sched with selfSuspend := false, phase := .svcEntry } }) ∧
    (s.sched.phase = .swToOps → s.arbState = 0x0200#16 →
      step s =
        .next { took rest s with arbState := 0x0002#16, sched := { s.sched with selfSuspend := true, phase := .swWaitOps } }) ∧
    (s.sched.phase = .swWaitOps → s.arbState = 0x0001#16 →
      step s =
        .next
          { took rest s with
            arbState := 0x0100#16, dcc := { s.dcc with resume := true }
            sched := { s.sched with selfSuspend := false, phase := .opsStart } }) ∧
    (s.arbState = 0x0200#16 →
      (s.sched.phase = .svcEntry →
        (s.dcc.mode = some .dccService → s.dcc.phase ≠ .dIdle → s.dcc.phase ≠ .dInit →
          step s = .next { took rest s with sched := { s.sched with r := 0, phase := .svcStartReset } }) ∧
        (s.dcc.mode ≠ some .dccService ∨ s.dcc.phase = .dIdle ∨ s.dcc.phase = .dInit → step s = .next (took rest s))) ∧
      (∀ n : Byte, s.sched.phase = .svcStartReset → s.act.startupResetPacketCount = some n →
        (s.sched.r < n.toNat → s.backq.length < Config.params.backCap →
          step s =
            .next
              { took rest s with
                backq := s.backq ++ [{ bytes := [0x00, 0x00, 0x00] }], sched := { s.sched with r := s.sched.r + 1 } }) ∧
        (s.sched.r < n.toNat → Config.params.backCap ≤ s.backq.length → step s = .next (took rest s)) ∧
        (n.toNat ≤ s.sched.r → step s = .next { took rest s with sched := { s.sched with phase := .svcNext } })) ∧
      (s.sched.phase = .svcNext → s.cvsvc = [] →
        step s = .next { took rest s with sched := { s.sched with phase := .swToOps } }) ∧
      (∀ e more, s.sched.phase = .svcNext → s.cvsvc = e :: more →
        step s = .next { took rest s with sched := { s.sched with req := some e, phase := .svcRun } }) ∧
      (∀ e, s.sched.phase = .svcRun → s.sched.req = some e →
        (e.op = .write →
          step s =
            .next
              { took rest s with
                ackbuf := none
                sched :=
                  { s.sched with alg := some .write, attPkt := some (svcWriteByte e.cvi e.data), r := 0, phase := .attProg } }) ∧
        (e.op = .read → s.act.programmingType = some 1 →
          step s =
            .next
              { took rest s with
                ackbuf := none
                sched :=
                  { s.sched with
                    alg := some .byte, v := 0, attPkt := some (svcVerifyByte e.cvi 0), r := 0, phase := .attProg } }) ∧
        (e.op = .read → s.act.programmingType = some 2 ∨ s.act.programmingType = some 3 →
          step s =
            .next
              { took rest s with
                ackbuf := none
                sched :=
                  { s.sched with
                    alg := some .bit, i := 0, acks := 0, attPkt := some (svcVerifyBit e.cvi Config.params.bitVerifyPol 0)
                    r := 0, phase := .attProg } })) ∧
      (∀ (np nc : Byte) (pkt : List Byte), s.act.programPacketCount = some np → s.act.continueResetPacketCount = some nc →
        s.backq.length < Config.params.backCap →
        (s.sched.phase = .attProg → s.sched.attPkt = some pkt → s.sched.r < np.toNat →
          step s =
            .next
              { took rest s with
                backq :=
                  s.backq ++
                    [{ bytes := pkt
                       first := decide (s.sched.r = 0)
                       last := decide (s.sched.r + 1 = np.toNat ∧ nc = 0) }]
                sched :=
                  if s.sched.r + 1 < np.toNat then { s.sched with r := s.sched.r + 1 }
                  else if nc = 0 then
                    { s.sched with r := s.sched.r + 1, waitDeadline := s.now + 2560000, phase := .attWait }
                  else { s.sched with r := 0, phase := .attReset } }) ∧
        (s.sched.phase = .attReset → s.sched.r < nc.toNat →
          step s =
            .next
              { took rest s with
                backq := s.backq ++ [{ bytes := [0x00, 0x00, 0x00], last := decide (s.sched.r + 1 = nc.toNat) }]
                sched :=
                  if s.sched.r + 1 < nc.toNat then { s.sched with r := s.sched.r + 1 }
                  else { s.sched with r := s.sched.r + 1, waitDeadline := s.now + 2560000, phase := .attWait } })))

/-- R273, R270, R275 and R274, the answers of a service attempt. The ack bit is taken from `ACKBUF`, and the timeout counts as no ack.
With it a byte read acknowledges the candidate and ends, and goes on to the next candidate without it up to 255; the last bit of a
bit read gives the byte by XOR with the polarity, answered at once in programming type 2 and confirmed in type 3; a confirmation and
a write end in `CV_ACK` or `CV_NACK`. -/
def Obligations.ServiceAnswers : Prop :=
  ∀ (s : State) (rest : List Move) (e : SvcReq) (more : List SvcReq) (alg : SvcAlg) (ack : Bool) (done : Option Byte → State),
    NextIs s .sched rest → s.arbState = modeValue .dccService → s.sched.phase = .attWait →
    s.sched.req = some e → s.cvsvc = e :: more → s.sched.alg = some alg →
    (s.ackbuf = some ack ∨ (s.ackbuf = none ∧ s.sched.waitDeadline ≤ s.now ∧ ack = false)) →
    done = (fun r =>
      { took rest s with
        ackbuf := none
        cvsvc := more
        events :=
          s.events ++
            [match r with
              | some x => eventWord 0x01#8 0 e.cvi x
              | none => eventWord 0x02#8 0 e.cvi 0]
        sched := { s.sched with attAck := ack, req := none, alg := none, attPkt := none, phase := .svcNext } }) →
    (alg = .byte → ack = true → step s = .next (done (some (BitVec.ofNat 8 s.sched.v)))) ∧
    (alg = .byte → ack = false → s.sched.v = 255 → step s = .next (done none)) ∧
    (alg = .byte → ack = false → s.sched.v < 255 →
      step s =
        .next
          { took rest s with
            ackbuf := none
            sched :=
              { s.sched with
                attAck := false, v := s.sched.v + 1, r := 0
                attPkt := some (svcVerifyByte e.cvi (BitVec.ofNat 8 (s.sched.v + 1))), phase := .attProg } }) ∧
    (alg = .bit → s.sched.i < 7 →
      step s =
        .next
          { took rest s with
            ackbuf := none
            sched :=
              { s.sched with
                attAck := ack, acks := s.sched.acks ||| ((BitVec.ofBool ack).setWidth 8 <<< s.sched.i)
                i := s.sched.i + 1, r := 0
                attPkt := some (svcVerifyBit e.cvi Config.params.bitVerifyPol (s.sched.i + 1)), phase := .attProg } }) ∧
    (∀ b : Byte, alg = .bit → s.sched.i = 7 →
      b = ((s.sched.acks ||| ((BitVec.ofBool ack).setWidth 8 <<< 7)) ^^^
        (if Config.params.bitVerifyPol = true then 0x00 else 0xFF)) →
      (s.act.programmingType = some 2 →
        ∃ t, step s = .next t ∧ t = { done (some b) with
          sched := { (done (some b)).sched with acks := s.sched.acks ||| ((BitVec.ofBool ack).setWidth 8 <<< 7), b := b } }) ∧
      (s.act.programmingType = some 3 →
        step s =
          .next
            { took rest s with
              ackbuf := none
              sched :=
                { s.sched with
                  attAck := ack, acks := s.sched.acks ||| ((BitVec.ofBool ack).setWidth 8 <<< 7), b := b, r := 0
                  alg := some .confirm, attPkt := some (svcVerifyByte e.cvi b), phase := .attProg } })) ∧
    (alg = .confirm → step s = .next (done (if ack then some s.sched.b else none))) ∧
    (alg = .write → step s = .next (done (if ack then some e.data else none)))

/-! ### Reset and faults -/

/-- R600, with the registers of R37 to R42, R503 and R504 (b), (c). The state after reset has the value of R600 in every element and meets
every invariant stated above; while `FATAL` is set no agent has a step, which the model shows as a step that answers that fault (log 21,
read into R504). The three classes of a fault have the codes 1, 2 and 3 of R503, and a fault of a class leaves its code in
`FATAL.class`. The model's own fields are no part of R600 and not said here (log 32). -/
def Obligations.ResetAndFatal : Prop :=
  (State.reset.arbState = 0x0001#16 ∧ State.reset.locos = [] ∧ State.reset.priorityCount = 1 ∧
    (∀ x, getSetting State.reset.cfg x = none) ∧ (∀ x, getSetting State.reset.act x = none) ∧ State.reset.curLim = 0 ∧
    State.reset.bidiEn = true ∧ State.reset.notify = { pending := false, val := 0 } ∧
    State.reset.frontq = [] ∧ State.reset.backq = [] ∧ State.reset.feedbackq = [] ∧ State.reset.cvsvc = [] ∧
    State.reset.cvpom = [] ∧ State.reset.decupInq = [] ∧ State.reset.mduInq = [] ∧ State.reset.decupReply = [] ∧
    State.reset.mduReply = [] ∧ State.reset.uartFifo = [] ∧ State.reset.ackbuf = none ∧
    State.reset.host = { phase := .hIdle, cmd := none, pend := none } ∧
    State.reset.sched =
      { phase := .idle, it := none, k := 0, r := 0, selfSuspend := false, req := none, alg := none, v := 0, i := 0, acks := 0
        b := 0, attPkt := none, waitDeadline := 0, attAck := false } ∧
    State.reset.dcc = { phase := .dIdle, mode := none, cur := none, txEnd := 0, bidiOn := false, resume := false } ∧
    State.reset.cutout = { phase := .cOff, t0 := 0, ts2Len := 0, ch1 := false } ∧
    State.reset.svcack = { phase := .aOff, win := [], sum := 0, zeros := 0, ref := none, ackSeen := false } ∧
    State.reset.decup =
      { phase := .uIdle, mode := none, cur := none, txEnd := 0, winDeadline := 0, t2 := 0, settleEnd := 0, idleDeadline := 0
        edges := 0, raw := 0, idKnown := false, resume := false, exitTimeout := false } ∧
    State.reset.mdu =
      { phase := .mIdle, mode := none, cur := none, txEnd := 0, timerBase := 0, idleDeadline := 0, capture := none
        rate := Config.params.mduDefaultRate, resume := false, exitTimeout := false } ∧
    State.reset.fatal = none ∧ State.reset.events = [] ∧ State.reset.track = [] ∧ State.reset.now = 0) ∧
  (ArbInv State.reset ∧ LocoInv Config.params State.reset ∧ PacketInv State.reset ∧ QueueInv Config.params State.reset ∧
    CodeInv State.reset ∧ AckInv State.reset) ∧
  (fatalClassCode .hwFail = 1 ∧ fatalClassCode .uninitSetting = 2 ∧ fatalClassCode .arbInvariant = 3 ∧
    ∀ (c : FaultClass) (a : Agent) (p : PhaseName) (s : State), fatalCode (raiseFault c a p s) = some (fatalClassCode c)) ∧
  ∀ (s : State) (r : FatalRecord), s.fatal = some r → step s = .fault (.fatal r)
end

