-- ==== Sys2Proof/Laws/State.lean ====
section
/-! SUPPORT. What each named update of the state leaves in each field: one lemma per field per update. -/

namespace Sys2Proof.Machine

/-! ### `putEvent` -/

@[simp] theorem putEvent_arbState (ev : Byte) (addr : Addr) (cvi : Cvi) (data : Byte) (ext : Option (BitVec 56)) (s : State) :
    (putEvent ev addr cvi data ext s).arbState = s.arbState := rfl
@[simp] theorem putEvent_locos (ev : Byte) (addr : Addr) (cvi : Cvi) (data : Byte) (ext : Option (BitVec 56)) (s : State) :
    (putEvent ev addr cvi data ext s).locos = s.locos := rfl
@[simp] theorem putEvent_priorityCount (ev : Byte) (addr : Addr) (cvi : Cvi) (data : Byte) (ext : Option (BitVec 56)) (s : State) :
    (putEvent ev addr cvi data ext s).priorityCount = s.priorityCount := rfl
@[simp] theorem putEvent_cfg (ev : Byte) (addr : Addr) (cvi : Cvi) (data : Byte) (ext : Option (BitVec 56)) (s : State) :
    (putEvent ev addr cvi data ext s).cfg = s.cfg := rfl
@[simp] theorem putEvent_act (ev : Byte) (addr : Addr) (cvi : Cvi) (data : Byte) (ext : Option (BitVec 56)) (s : State) :
    (putEvent ev addr cvi data ext s).act = s.act := rfl
@[simp] theorem putEvent_curLim (ev : Byte) (addr : Addr) (cvi : Cvi) (data : Byte) (ext : Option (BitVec 56)) (s : State) :
    (putEvent ev addr cvi data ext s).curLim = s.curLim := rfl
@[simp] theorem putEvent_bidiEn (ev : Byte) (addr : Addr) (cvi : Cvi) (data : Byte) (ext : Option (BitVec 56)) (s : State) :
    (putEvent ev addr cvi data ext s).bidiEn = s.bidiEn := rfl
@[simp] theorem putEvent_notify (ev : Byte) (addr : Addr) (cvi : Cvi) (data : Byte) (ext : Option (BitVec 56)) (s : State) :
    (putEvent ev addr cvi data ext s).notify = s.notify := rfl
@[simp] theorem putEvent_frontq (ev : Byte) (addr : Addr) (cvi : Cvi) (data : Byte) (ext : Option (BitVec 56)) (s : State) :
    (putEvent ev addr cvi data ext s).frontq = s.frontq := rfl
@[simp] theorem putEvent_backq (ev : Byte) (addr : Addr) (cvi : Cvi) (data : Byte) (ext : Option (BitVec 56)) (s : State) :
    (putEvent ev addr cvi data ext s).backq = s.backq := rfl
@[simp] theorem putEvent_feedbackq (ev : Byte) (addr : Addr) (cvi : Cvi) (data : Byte) (ext : Option (BitVec 56)) (s : State) :
    (putEvent ev addr cvi data ext s).feedbackq = s.feedbackq := rfl
@[simp] theorem putEvent_cvsvc (ev : Byte) (addr : Addr) (cvi : Cvi) (data : Byte) (ext : Option (BitVec 56)) (s : State) :
    (putEvent ev addr cvi data ext s).cvsvc = s.cvsvc := rfl
@[simp] theorem putEvent_cvpom (ev : Byte) (addr : Addr) (cvi : Cvi) (data : Byte) (ext : Option (BitVec 56)) (s : State) :
    (putEvent ev addr cvi data ext s).cvpom = s.cvpom := rfl
@[simp] theorem putEvent_ackbuf (ev : Byte) (addr : Addr) (cvi : Cvi) (data : Byte) (ext : Option (BitVec 56)) (s : State) :
    (putEvent ev addr cvi data ext s).ackbuf = s.ackbuf := rfl
@[simp] theorem putEvent_decupInq (ev : Byte) (addr : Addr) (cvi : Cvi) (data : Byte) (ext : Option (BitVec 56)) (s : State) :
    (putEvent ev addr cvi data ext s).decupInq = s.decupInq := rfl
@[simp] theorem putEvent_mduInq (ev : Byte) (addr : Addr) (cvi : Cvi) (data : Byte) (ext : Option (BitVec 56)) (s : State) :
    (putEvent ev addr cvi data ext s).mduInq = s.mduInq := rfl
@[simp] theorem putEvent_decupReply (ev : Byte) (addr : Addr) (cvi : Cvi) (data : Byte) (ext : Option (BitVec 56)) (s : State) :
    (putEvent ev addr cvi data ext s).decupReply = s.decupReply := rfl
@[simp] theorem putEvent_mduReply (ev : Byte) (addr : Addr) (cvi : Cvi) (data : Byte) (ext : Option (BitVec 56)) (s : State) :
    (putEvent ev addr cvi data ext s).mduReply = s.mduReply := rfl
@[simp] theorem putEvent_uartFifo (ev : Byte) (addr : Addr) (cvi : Cvi) (data : Byte) (ext : Option (BitVec 56)) (s : State) :
    (putEvent ev addr cvi data ext s).uartFifo = s.uartFifo := rfl
@[simp] theorem putEvent_host (ev : Byte) (addr : Addr) (cvi : Cvi) (data : Byte) (ext : Option (BitVec 56)) (s : State) :
    (putEvent ev addr cvi data ext s).host = s.host := rfl
@[simp] theorem putEvent_sched (ev : Byte) (addr : Addr) (cvi : Cvi) (data : Byte) (ext : Option (BitVec 56)) (s : State) :
    (putEvent ev addr cvi data ext s).sched = s.sched := rfl
@[simp] theorem putEvent_dcc (ev : Byte) (addr : Addr) (cvi : Cvi) (data : Byte) (ext : Option (BitVec 56)) (s : State) :
    (putEvent ev addr cvi data ext s).dcc = s.dcc := rfl
@[simp] theorem putEvent_cutout (ev : Byte) (addr : Addr) (cvi : Cvi) (data : Byte) (ext : Option (BitVec 56)) (s : State) :
    (putEvent ev addr cvi data ext s).cutout = s.cutout := rfl
@[simp] theorem putEvent_svcack (ev : Byte) (addr : Addr) (cvi : Cvi) (data : Byte) (ext : Option (BitVec 56)) (s : State) :
    (putEvent ev addr cvi data ext s).svcack = s.svcack := rfl
@[simp] theorem putEvent_decup (ev : Byte) (addr : Addr) (cvi : Cvi) (data : Byte) (ext : Option (BitVec 56)) (s : State) :
    (putEvent ev addr cvi data ext s).decup = s.decup := rfl
@[simp] theorem putEvent_mdu (ev : Byte) (addr : Addr) (cvi : Cvi) (data : Byte) (ext : Option (BitVec 56)) (s : State) :
    (putEvent ev addr cvi data ext s).mdu = s.mdu := rfl
@[simp] theorem putEvent_fatal (ev : Byte) (addr : Addr) (cvi : Cvi) (data : Byte) (ext : Option (BitVec 56)) (s : State) :
    (putEvent ev addr cvi data ext s).fatal = s.fatal := rfl
@[simp] theorem putEvent_events (ev : Byte) (addr : Addr) (cvi : Cvi) (data : Byte) (ext : Option (BitVec 56)) (s : State) :
    (putEvent ev addr cvi data ext s).events = s.events ++ eventWords ev addr cvi data ext := rfl
@[simp] theorem putEvent_track (ev : Byte) (addr : Addr) (cvi : Cvi) (data : Byte) (ext : Option (BitVec 56)) (s : State) :
    (putEvent ev addr cvi data ext s).track = s.track := rfl
@[simp] theorem putEvent_now (ev : Byte) (addr : Addr) (cvi : Cvi) (data : Byte) (ext : Option (BitVec 56)) (s : State) :
    (putEvent ev addr cvi data ext s).now = s.now := rfl
@[simp] theorem putEvent_hostPort (ev : Byte) (addr : Addr) (cvi : Cvi) (data : Byte) (ext : Option (BitVec 56)) (s : State) :
    (putEvent ev addr cvi data ext s).hostPort = s.hostPort := rfl
@[simp] theorem putEvent_analogPort (ev : Byte) (addr : Addr) (cvi : Cvi) (data : Byte) (ext : Option (BitVec 56)) (s : State) :
    (putEvent ev addr cvi data ext s).analogPort = s.analogPort := rfl
@[simp] theorem putEvent_extPort (ev : Byte) (addr : Addr) (cvi : Cvi) (data : Byte) (ext : Option (BitVec 56)) (s : State) :
    (putEvent ev addr cvi data ext s).extPort = s.extPort := rfl
@[simp] theorem putEvent_agenda (ev : Byte) (addr : Addr) (cvi : Cvi) (data : Byte) (ext : Option (BitVec 56)) (s : State) :
    (putEvent ev addr cvi data ext s).agenda = s.agenda := rfl
@[simp] theorem putEvent_freeMoves (ev : Byte) (addr : Addr) (cvi : Cvi) (data : Byte) (ext : Option (BitVec 56)) (s : State) :
    (putEvent ev addr cvi data ext s).freeMoves = s.freeMoves := rfl
@[simp] theorem putEvent_lookups (ev : Byte) (addr : Addr) (cvi : Cvi) (data : Byte) (ext : Option (BitVec 56)) (s : State) :
    (putEvent ev addr cvi data ext s).lookups = s.lookups := rfl
@[simp] theorem putEvent_polled (ev : Byte) (addr : Addr) (cvi : Cvi) (data : Byte) (ext : Option (BitVec 56)) (s : State) :
    (putEvent ev addr cvi data ext s).polled = s.polled := rfl
@[simp] theorem putEvent_issuer (ev : Byte) (addr : Addr) (cvi : Cvi) (data : Byte) (ext : Option (BitVec 56)) (s : State) :
    (putEvent ev addr cvi data ext s).issuer = s.issuer := rfl
@[simp] theorem putEvent_rxPkt (ev : Byte) (addr : Addr) (cvi : Cvi) (data : Byte) (ext : Option (BitVec 56)) (s : State) :
    (putEvent ev addr cvi data ext s).rxPkt = s.rxPkt := rfl
@[simp] theorem putEvent_outLatch (ev : Byte) (addr : Addr) (cvi : Cvi) (data : Byte) (ext : Option (BitVec 56)) (s : State) :
    (putEvent ev addr cvi data ext s).outLatch = s.outLatch := rfl

/-! ### `raiseFault` -/

@[simp] theorem raiseFault_arbState (cls : FaultClass) (agent : Agent) (p : PhaseName) (s : State) :
    (raiseFault cls agent p s).arbState = s.arbState := rfl
@[simp] theorem raiseFault_locos (cls : FaultClass) (agent : Agent) (p : PhaseName) (s : State) :
    (raiseFault cls agent p s).locos = s.locos := rfl
@[simp] theorem raiseFault_priorityCount (cls : FaultClass) (agent : Agent) (p : PhaseName) (s : State) :
    (raiseFault cls agent p s).priorityCount = s.priorityCount := rfl
@[simp] theorem raiseFault_cfg (cls : FaultClass) (agent : Agent) (p : PhaseName) (s : State) :
    (raiseFault cls agent p s).cfg = s.cfg := rfl
@[simp] theorem raiseFault_act (cls : FaultClass) (agent : Agent) (p : PhaseName) (s : State) :
    (raiseFault cls agent p s).act = s.act := rfl
@[simp] theorem raiseFault_curLim (cls : FaultClass) (agent : Agent) (p : PhaseName) (s : State) :
    (raiseFault cls agent p s).curLim = s.curLim := rfl
@[simp] theorem raiseFault_bidiEn (cls : FaultClass) (agent : Agent) (p : PhaseName) (s : State) :
    (raiseFault cls agent p s).bidiEn = s.bidiEn := rfl
@[simp] theorem raiseFault_notify (cls : FaultClass) (agent : Agent) (p : PhaseName) (s : State) :
    (raiseFault cls agent p s).notify = s.notify := rfl
@[simp] theorem raiseFault_frontq (cls : FaultClass) (agent : Agent) (p : PhaseName) (s : State) :
    (raiseFault cls agent p s).frontq = s.frontq := rfl
@[simp] theorem raiseFault_backq (cls : FaultClass) (agent : Agent) (p : PhaseName) (s : State) :
    (raiseFault cls agent p s).backq = s.backq := rfl
@[simp] theorem raiseFault_feedbackq (cls : FaultClass) (agent : Agent) (p : PhaseName) (s : State) :
    (raiseFault cls agent p s).feedbackq = s.feedbackq := rfl
@[simp] theorem raiseFault_cvsvc (cls : FaultClass) (agent : Agent) (p : PhaseName) (s : State) :
    (raiseFault cls agent p s).cvsvc = s.cvsvc := rfl
@[simp] theorem raiseFault_cvpom (cls : FaultClass) (agent : Agent) (p : PhaseName) (s : State) :
    (raiseFault cls agent p s).cvpom = s.cvpom := rfl
@[simp] theorem raiseFault_ackbuf (cls : FaultClass) (agent : Agent) (p : PhaseName) (s : State) :
    (raiseFault cls agent p s).ackbuf = s.ackbuf := rfl
@[simp] theorem raiseFault_decupInq (cls : FaultClass) (agent : Agent) (p : PhaseName) (s : State) :
    (raiseFault cls agent p s).decupInq = s.decupInq := rfl
@[simp] theorem raiseFault_mduInq (cls : FaultClass) (agent : Agent) (p : PhaseName) (s : State) :
    (raiseFault cls agent p s).mduInq = s.mduInq := rfl
@[simp] theorem raiseFault_decupReply (cls : FaultClass) (agent : Agent) (p : PhaseName) (s : State) :
    (raiseFault cls agent p s).decupReply = s.decupReply := rfl
@[simp] theorem raiseFault_mduReply (cls : FaultClass) (agent : Agent) (p : PhaseName) (s : State) :
    (raiseFault cls agent p s).mduReply = s.mduReply := rfl
@[simp] theorem raiseFault_uartFifo (cls : FaultClass) (agent : Agent) (p : PhaseName) (s : State) :
    (raiseFault cls agent p s).uartFifo = s.uartFifo := rfl
@[simp] theorem raiseFault_host (cls : FaultClass) (agent : Agent) (p : PhaseName) (s : State) :
    (raiseFault cls agent p s).host = s.host := rfl
@[simp] theorem raiseFault_sched (cls : FaultClass) (agent : Agent) (p : PhaseName) (s : State) :
    (raiseFault cls agent p s).sched = s.sched := rfl
@[simp] theorem raiseFault_dcc (cls : FaultClass) (agent : Agent) (p : PhaseName) (s : State) :
    (raiseFault cls agent p s).dcc = s.dcc := rfl
@[simp] theorem raiseFault_cutout (cls : FaultClass) (agent : Agent) (p : PhaseName) (s : State) :
    (raiseFault cls agent p s).cutout = s.cutout := rfl
@[simp] theorem raiseFault_svcack (cls : FaultClass) (agent : Agent) (p : PhaseName) (s : State) :
    (raiseFault cls agent p s).svcack = s.svcack := rfl
@[simp] theorem raiseFault_decup (cls : FaultClass) (agent : Agent) (p : PhaseName) (s : State) :
    (raiseFault cls agent p s).decup = s.decup := rfl
@[simp] theorem raiseFault_mdu (cls : FaultClass) (agent : Agent) (p : PhaseName) (s : State) :
    (raiseFault cls agent p s).mdu = s.mdu := rfl
@[simp] theorem raiseFault_fatal (cls : FaultClass) (agent : Agent) (p : PhaseName) (s : State) :
    (raiseFault cls agent p s).fatal = some { cls := cls, agent := agent, step := p } := rfl
@[simp] theorem raiseFault_events (cls : FaultClass) (agent : Agent) (p : PhaseName) (s : State) :
    (raiseFault cls agent p s).events = s.events := rfl
@[simp] theorem raiseFault_track (cls : FaultClass) (agent : Agent) (p : PhaseName) (s : State) :
    (raiseFault cls agent p s).track = s.track := rfl
@[simp] theorem raiseFault_now (cls : FaultClass) (agent : Agent) (p : PhaseName) (s : State) :
    (raiseFault cls agent p s).now = s.now := rfl
@[simp] theorem raiseFault_hostPort (cls : FaultClass) (agent : Agent) (p : PhaseName) (s : State) :
    (raiseFault cls agent p s).hostPort = s.hostPort := rfl
@[simp] theorem raiseFault_analogPort (cls : FaultClass) (agent : Agent) (p : PhaseName) (s : State) :
    (raiseFault cls agent p s).analogPort = s.analogPort := rfl
@[simp] theorem raiseFault_extPort (cls : FaultClass) (agent : Agent) (p : PhaseName) (s : State) :
    (raiseFault cls agent p s).extPort = s.extPort := rfl
@[simp] theorem raiseFault_agenda (cls : FaultClass) (agent : Agent) (p : PhaseName) (s : State) :
    (raiseFault cls agent p s).agenda = s.agenda := rfl
@[simp] theorem raiseFault_freeMoves (cls : FaultClass) (agent : Agent) (p : PhaseName) (s : State) :
    (raiseFault cls agent p s).freeMoves = s.freeMoves := rfl
@[simp] theorem raiseFault_lookups (cls : FaultClass) (agent : Agent) (p : PhaseName) (s : State) :
    (raiseFault cls agent p s).lookups = s.lookups := rfl
@[simp] theorem raiseFault_polled (cls : FaultClass) (agent : Agent) (p : PhaseName) (s : State) :
    (raiseFault cls agent p s).polled = s.polled := rfl
@[simp] theorem raiseFault_issuer (cls : FaultClass) (agent : Agent) (p : PhaseName) (s : State) :
    (raiseFault cls agent p s).issuer = s.issuer := rfl
@[simp] theorem raiseFault_rxPkt (cls : FaultClass) (agent : Agent) (p : PhaseName) (s : State) :
    (raiseFault cls agent p s).rxPkt = s.rxPkt := rfl
@[simp] theorem raiseFault_outLatch (cls : FaultClass) (agent : Agent) (p : PhaseName) (s : State) :
    (raiseFault cls agent p s).outLatch = s.outLatch := rfl

/-! ### `pushFront` -/

@[simp] theorem pushFront_arbState (e : Packet) (s : State) : (pushFront e s).arbState = s.arbState := rfl
@[simp] theorem pushFront_locos (e : Packet) (s : State) : (pushFront e s).locos = s.locos := rfl
@[simp] theorem pushFront_priorityCount (e : Packet) (s : State) : (pushFront e s).priorityCount = s.priorityCount := rfl
@[simp] theorem pushFront_cfg (e : Packet) (s : State) : (pushFront e s).cfg = s.cfg := rfl
@[simp] theorem pushFront_act (e : Packet) (s : State) : (pushFront e s).act = s.act := rfl
@[simp] theorem pushFront_curLim (e : Packet) (s : State) : (pushFront e s).curLim = s.curLim := rfl
@[simp] theorem pushFront_bidiEn (e : Packet) (s : State) : (pushFront e s).bidiEn = s.bidiEn := rfl
@[simp] theorem pushFront_notify (e : Packet) (s : State) : (pushFront e s).notify = s.notify := rfl
@[simp] theorem pushFront_frontq (e : Packet) (s : State) : (pushFront e s).frontq = s.frontq ++ [e] := rfl
@[simp] theorem pushFront_backq (e : Packet) (s : State) : (pushFront e s).backq = s.backq := rfl
@[simp] theorem pushFront_feedbackq (e : Packet) (s : State) : (pushFront e s).feedbackq = s.feedbackq := rfl
@[simp] theorem pushFront_cvsvc (e : Packet) (s : State) : (pushFront e s).cvsvc = s.cvsvc := rfl
@[simp] theorem pushFront_cvpom (e : Packet) (s : State) : (pushFront e s).cvpom = s.cvpom := rfl
@[simp] theorem pushFront_ackbuf (e : Packet) (s : State) : (pushFront e s).ackbuf = s.ackbuf := rfl
@[simp] theorem pushFront_decupInq (e : Packet) (s : State) : (pushFront e s).decupInq = s.decupInq := rfl
@[simp] theorem pushFront_mduInq (e : Packet) (s : State) : (pushFront e s).mduInq = s.mduInq := rfl
@[simp] theorem pushFront_decupReply (e : Packet) (s : State) : (pushFront e s).decupReply = s.decupReply := rfl
@[simp] theorem pushFront_mduReply (e : Packet) (s : State) : (pushFront e s).mduReply = s.mduReply := rfl
@[simp] theorem pushFront_uartFifo (e : Packet) (s : State) : (pushFront e s).uartFifo = s.uartFifo := rfl
@[simp] theorem pushFront_host (e : Packet) (s : State) : (pushFront e s).host = s.host := rfl
@[simp] theorem pushFront_sched (e : Packet) (s : State) : (pushFront e s).sched = s.sched := rfl
@[simp] theorem pushFront_dcc (e : Packet) (s : State) : (pushFront e s).dcc = s.dcc := rfl
@[simp] theorem pushFront_cutout (e : Packet) (s : State) : (pushFront e s).cutout = s.cutout := rfl
@[simp] theorem pushFront_svcack (e : Packet) (s : State) : (pushFront e s).svcack = s.svcack := rfl
@[simp] theorem pushFront_decup (e : Packet) (s : State) : (pushFront e s).decup = s.decup := rfl
@[simp] theorem pushFront_mdu (e : Packet) (s : State) : (pushFront e s).mdu = s.mdu := rfl
@[simp] theorem pushFront_fatal (e : Packet) (s : State) : (pushFront e s).fatal = s.fatal := rfl
@[simp] theorem pushFront_events (e : Packet) (s : State) : (pushFront e s).events = s.events := rfl
@[simp] theorem pushFront_track (e : Packet) (s : State) : (pushFront e s).track = s.track := rfl
@[simp] theorem pushFront_now (e : Packet) (s : State) : (pushFront e s).now = s.now := rfl
@[simp] theorem pushFront_hostPort (e : Packet) (s : State) : (pushFront e s).hostPort = s.hostPort := rfl
@[simp] theorem pushFront_analogPort (e : Packet) (s : State) : (pushFront e s).analogPort = s.analogPort := rfl
@[simp] theorem pushFront_extPort (e : Packet) (s : State) : (pushFront e s).extPort = s.extPort := rfl
@[simp] theorem pushFront_agenda (e : Packet) (s : State) : (pushFront e s).agenda = s.agenda := rfl
@[simp] theorem pushFront_freeMoves (e : Packet) (s : State) : (pushFront e s).freeMoves = s.freeMoves := rfl
@[simp] theorem pushFront_lookups (e : Packet) (s : State) : (pushFront e s).lookups = s.lookups := rfl
@[simp] theorem pushFront_polled (e : Packet) (s : State) : (pushFront e s).polled = s.polled := rfl
@[simp] theorem pushFront_issuer (e : Packet) (s : State) : (pushFront e s).issuer = s.issuer := rfl
@[simp] theorem pushFront_rxPkt (e : Packet) (s : State) : (pushFront e s).rxPkt = s.rxPkt := rfl
@[simp] theorem pushFront_outLatch (e : Packet) (s : State) : (pushFront e s).outLatch = s.outLatch := rfl

/-! ### `pushBack` -/

@[simp] theorem pushBack_arbState (e : Packet) (s : State) : (pushBack e s).arbState = s.arbState := rfl
@[simp] theorem pushBack_locos (e : Packet) (s : State) : (pushBack e s).locos = s.locos := rfl
@[simp] theorem pushBack_priorityCount (e : Packet) (s : State) : (pushBack e s).priorityCount = s.priorityCount := rfl
@[simp] theorem pushBack_cfg (e : Packet) (s : State) : (pushBack e s).cfg = s.cfg := rfl
@[simp] theorem pushBack_act (e : Packet) (s : State) : (pushBack e s).act = s.act := rfl
@[simp] theorem pushBack_curLim (e : Packet) (s : State) : (pushBack e s).curLim = s.curLim := rfl
@[simp] theorem pushBack_bidiEn (e : Packet) (s : State) : (pushBack e s).bidiEn = s.bidiEn := rfl
@[simp] theorem pushBack_notify (e : Packet) (s : State) : (pushBack e s).notify = s.notify := rfl
@[simp] theorem pushBack_frontq (e : Packet) (s : State) : (pushBack e s).frontq = s.frontq := rfl
@[simp] theorem pushBack_backq (e : Packet) (s : State) : (pushBack e s).backq = s.backq ++ [e] := rfl
@[simp] theorem pushBack_feedbackq (e : Packet) (s : State) : (pushBack e s).feedbackq = s.feedbackq := rfl
@[simp] theorem pushBack_cvsvc (e : Packet) (s : State) : (pushBack e s).cvsvc = s.cvsvc := rfl
@[simp] theorem pushBack_cvpom (e : Packet) (s : State) : (pushBack e s).cvpom = s.cvpom := rfl
@[simp] theorem pushBack_ackbuf (e : Packet) (s : State) : (pushBack e s).ackbuf = s.ackbuf := rfl
@[simp] theorem pushBack_decupInq (e : Packet) (s : State) : (pushBack e s).decupInq = s.decupInq := rfl
@[simp] theorem pushBack_mduInq (e : Packet) (s : State) : (pushBack e s).mduInq = s.mduInq := rfl
@[simp] theorem pushBack_decupReply (e : Packet) (s : State) : (pushBack e s).decupReply = s.decupReply := rfl
@[simp] theorem pushBack_mduReply (e : Packet) (s : State) : (pushBack e s).mduReply = s.mduReply := rfl
@[simp] theorem pushBack_uartFifo (e : Packet) (s : State) : (pushBack e s).uartFifo = s.uartFifo := rfl
@[simp] theorem pushBack_host (e : Packet) (s : State) : (pushBack e s).host = s.host := rfl
@[simp] theorem pushBack_sched (e : Packet) (s : State) : (pushBack e s).sched = s.sched := rfl
@[simp] theorem pushBack_dcc (e : Packet) (s : State) : (pushBack e s).dcc = s.dcc := rfl
@[simp] theorem pushBack_cutout (e : Packet) (s : State) : (pushBack e s).cutout = s.cutout := rfl
@[simp] theorem pushBack_svcack (e : Packet) (s : State) : (pushBack e s).svcack = s.svcack := rfl
@[simp] theorem pushBack_decup (e : Packet) (s : State) : (pushBack e s).decup = s.decup := rfl
@[simp] theorem pushBack_mdu (e : Packet) (s : State) : (pushBack e s).mdu = s.mdu := rfl
@[simp] theorem pushBack_fatal (e : Packet) (s : State) : (pushBack e s).fatal = s.fatal := rfl
@[simp] theorem pushBack_events (e : Packet) (s : State) : (pushBack e s).events = s.events := rfl
@[simp] theorem pushBack_track (e : Packet) (s : State) : (pushBack e s).track = s.track := rfl
@[simp] theorem pushBack_now (e : Packet) (s : State) : (pushBack e s).now = s.now := rfl
@[simp] theorem pushBack_hostPort (e : Packet) (s : State) : (pushBack e s).hostPort = s.hostPort := rfl
@[simp] theorem pushBack_analogPort (e : Packet) (s : State) : (pushBack e s).analogPort = s.analogPort := rfl
@[simp] theorem pushBack_extPort (e : Packet) (s : State) : (pushBack e s).extPort = s.extPort := rfl
@[simp] theorem pushBack_agenda (e : Packet) (s : State) : (pushBack e s).agenda = s.agenda := rfl
@[simp] theorem pushBack_freeMoves (e : Packet) (s : State) : (pushBack e s).freeMoves = s.freeMoves := rfl
@[simp] theorem pushBack_lookups (e : Packet) (s : State) : (pushBack e s).lookups = s.lookups := rfl
@[simp] theorem pushBack_polled (e : Packet) (s : State) : (pushBack e s).polled = s.polled := rfl
@[simp] theorem pushBack_issuer (e : Packet) (s : State) : (pushBack e s).issuer = s.issuer := rfl
@[simp] theorem pushBack_rxPkt (e : Packet) (s : State) : (pushBack e s).rxPkt = s.rxPkt := rfl
@[simp] theorem pushBack_outLatch (e : Packet) (s : State) : (pushBack e s).outLatch = s.outLatch := rfl

/-! ### `pushPom` -/

@[simp] theorem pushPom_arbState (e : PomReq) (s : State) : (pushPom e s).arbState = s.arbState := rfl
@[simp] theorem pushPom_locos (e : PomReq) (s : State) : (pushPom e s).locos = s.locos := rfl
@[simp] theorem pushPom_priorityCount (e : PomReq) (s : State) : (pushPom e s).priorityCount = s.priorityCount := rfl
@[simp] theorem pushPom_cfg (e : PomReq) (s : State) : (pushPom e s).cfg = s.cfg := rfl
@[simp] theorem pushPom_act (e : PomReq) (s : State) : (pushPom e s).act = s.act := rfl
@[simp] theorem pushPom_curLim (e : PomReq) (s : State) : (pushPom e s).curLim = s.curLim := rfl
@[simp] theorem pushPom_bidiEn (e : PomReq) (s : State) : (pushPom e s).bidiEn = s.bidiEn := rfl
@[simp] theorem pushPom_notify (e : PomReq) (s : State) : (pushPom e s).notify = s.notify := rfl
@[simp] theorem pushPom_frontq (e : PomReq) (s : State) : (pushPom e s).frontq = s.frontq := rfl
@[simp] theorem pushPom_backq (e : PomReq) (s : State) : (pushPom e s).backq = s.backq := rfl
@[simp] theorem pushPom_feedbackq (e : PomReq) (s : State) : (pushPom e s).feedbackq = s.feedbackq := rfl
@[simp] theorem pushPom_cvsvc (e : PomReq) (s : State) : (pushPom e s).cvsvc = s.cvsvc := rfl
@[simp] theorem pushPom_cvpom (e : PomReq) (s : State) : (pushPom e s).cvpom = s.cvpom ++ [e] := rfl
@[simp] theorem pushPom_ackbuf (e : PomReq) (s : State) : (pushPom e s).ackbuf = s.ackbuf := rfl
@[simp] theorem pushPom_decupInq (e : PomReq) (s : State) : (pushPom e s).decupInq = s.decupInq := rfl
@[simp] theorem pushPom_mduInq (e : PomReq) (s : State) : (pushPom e s).mduInq = s.mduInq := rfl
@[simp] theorem pushPom_decupReply (e : PomReq) (s : State) : (pushPom e s).decupReply = s.decupReply := rfl
@[simp] theorem pushPom_mduReply (e : PomReq) (s : State) : (pushPom e s).mduReply = s.mduReply := rfl
@[simp] theorem pushPom_uartFifo (e : PomReq) (s : State) : (pushPom e s).uartFifo = s.uartFifo := rfl
@[simp] theorem pushPom_host (e : PomReq) (s : State) : (pushPom e s).host = s.host := rfl
@[simp] theorem pushPom_sched (e : PomReq) (s : State) : (pushPom e s).sched = s.sched := rfl
@[simp] theorem pushPom_dcc (e : PomReq) (s : State) : (pushPom e s).dcc = s.dcc := rfl
@[simp] theorem pushPom_cutout (e : PomReq) (s : State) : (pushPom e s).cutout = s.cutout := rfl
@[simp] theorem pushPom_svcack (e : PomReq) (s : State) : (pushPom e s).svcack = s.svcack := rfl
@[simp] theorem pushPom_decup (e : PomReq) (s : State) : (pushPom e s).decup = s.decup := rfl
@[simp] theorem pushPom_mdu (e : PomReq) (s : State) : (pushPom e s).mdu = s.mdu := rfl
@[simp] theorem pushPom_fatal (e : PomReq) (s : State) : (pushPom e s).fatal = s.fatal := rfl
@[simp] theorem pushPom_events (e : PomReq) (s : State) : (pushPom e s).events = s.events := rfl
@[simp] theorem pushPom_track (e : PomReq) (s : State) : (pushPom e s).track = s.track := rfl
@[simp] theorem pushPom_now (e : PomReq) (s : State) : (pushPom e s).now = s.now := rfl
@[simp] theorem pushPom_hostPort (e : PomReq) (s : State) : (pushPom e s).hostPort = s.hostPort := rfl
@[simp] theorem pushPom_analogPort (e : PomReq) (s : State) : (pushPom e s).analogPort = s.analogPort := rfl
@[simp] theorem pushPom_extPort (e : PomReq) (s : State) : (pushPom e s).extPort = s.extPort := rfl
@[simp] theorem pushPom_agenda (e : PomReq) (s : State) : (pushPom e s).agenda = s.agenda := rfl
@[simp] theorem pushPom_freeMoves (e : PomReq) (s : State) : (pushPom e s).freeMoves = s.freeMoves := rfl
@[simp] theorem pushPom_lookups (e : PomReq) (s : State) : (pushPom e s).lookups = s.lookups := rfl
@[simp] theorem pushPom_polled (e : PomReq) (s : State) : (pushPom e s).polled = s.polled := rfl
@[simp] theorem pushPom_issuer (e : PomReq) (s : State) : (pushPom e s).issuer = s.issuer := rfl
@[simp] theorem pushPom_rxPkt (e : PomReq) (s : State) : (pushPom e s).rxPkt = s.rxPkt := rfl
@[simp] theorem pushPom_outLatch (e : PomReq) (s : State) : (pushPom e s).outLatch = s.outLatch := rfl

/-! ### `setLoco` -/

@[simp] theorem setLoco_arbState (a : Addr) (l : Loco) (s : State) : (setLoco a l s).arbState = s.arbState := rfl
@[simp] theorem setLoco_locos (a : Addr) (l : Loco) (s : State) : (setLoco a l s).locos = locoPut a l s.locos := rfl
@[simp] theorem setLoco_priorityCount (a : Addr) (l : Loco) (s : State) : (setLoco a l s).priorityCount = s.priorityCount := rfl
@[simp] theorem setLoco_cfg (a : Addr) (l : Loco) (s : State) : (setLoco a l s).cfg = s.cfg := rfl
@[simp] theorem setLoco_act (a : Addr) (l : Loco) (s : State) : (setLoco a l s).act = s.act := rfl
@[simp] theorem setLoco_curLim (a : Addr) (l : Loco) (s : State) : (setLoco a l s).curLim = s.curLim := rfl
@[simp] theorem setLoco_bidiEn (a : Addr) (l : Loco) (s : State) : (setLoco a l s).bidiEn = s.bidiEn := rfl
@[simp] theorem setLoco_notify (a : Addr) (l : Loco) (s : State) : (setLoco a l s).notify = s.notify := rfl
@[simp] theorem setLoco_frontq (a : Addr) (l : Loco) (s : State) : (setLoco a l s).frontq = s.frontq := rfl
@[simp] theorem setLoco_backq (a : Addr) (l : Loco) (s : State) : (setLoco a l s).backq = s.backq := rfl
@[simp] theorem setLoco_feedbackq (a : Addr) (l : Loco) (s : State) : (setLoco a l s).feedbackq = s.feedbackq := rfl
@[simp] theorem setLoco_cvsvc (a : Addr) (l : Loco) (s : State) : (setLoco a l s).cvsvc = s.cvsvc := rfl
@[simp] theorem setLoco_cvpom (a : Addr) (l : Loco) (s : State) : (setLoco a l s).cvpom = s.cvpom := rfl
@[simp] theorem setLoco_ackbuf (a : Addr) (l : Loco) (s : State) : (setLoco a l s).ackbuf = s.ackbuf := rfl
@[simp] theorem setLoco_decupInq (a : Addr) (l : Loco) (s : State) : (setLoco a l s).decupInq = s.decupInq := rfl
@[simp] theorem setLoco_mduInq (a : Addr) (l : Loco) (s : State) : (setLoco a l s).mduInq = s.mduInq := rfl
@[simp] theorem setLoco_decupReply (a : Addr) (l : Loco) (s : State) : (setLoco a l s).decupReply = s.decupReply := rfl
@[simp] theorem setLoco_mduReply (a : Addr) (l : Loco) (s : State) : (setLoco a l s).mduReply = s.mduReply := rfl
@[simp] theorem setLoco_uartFifo (a : Addr) (l : Loco) (s : State) : (setLoco a l s).uartFifo = s.uartFifo := rfl
@[simp] theorem setLoco_host (a : Addr) (l : Loco) (s : State) : (setLoco a l s).host = s.host := rfl
@[simp] theorem setLoco_sched (a : Addr) (l : Loco) (s : State) : (setLoco a l s).sched = s.sched := rfl
@[simp] theorem setLoco_dcc (a : Addr) (l : Loco) (s : State) : (setLoco a l s).dcc = s.dcc := rfl
@[simp] theorem setLoco_cutout (a : Addr) (l : Loco) (s : State) : (setLoco a l s).cutout = s.cutout := rfl
@[simp] theorem setLoco_svcack (a : Addr) (l : Loco) (s : State) : (setLoco a l s).svcack = s.svcack := rfl
@[simp] theorem setLoco_decup (a : Addr) (l : Loco) (s : State) : (setLoco a l s).decup = s.decup := rfl
@[simp] theorem setLoco_mdu (a : Addr) (l : Loco) (s : State) : (setLoco a l s).mdu = s.mdu := rfl
@[simp] theorem setLoco_fatal (a : Addr) (l : Loco) (s : State) : (setLoco a l s).fatal = s.fatal := rfl
@[simp] theorem setLoco_events (a : Addr) (l : Loco) (s : State) : (setLoco a l s).events = s.events := rfl
@[simp] theorem setLoco_track (a : Addr) (l : Loco) (s : State) : (setLoco a l s).track = s.track := rfl
@[simp] theorem setLoco_now (a : Addr) (l : Loco) (s : State) : (setLoco a l s).now = s.now := rfl
@[simp] theorem setLoco_hostPort (a : Addr) (l : Loco) (s : State) : (setLoco a l s).hostPort = s.hostPort := rfl
@[simp] theorem setLoco_analogPort (a : Addr) (l : Loco) (s : State) : (setLoco a l s).analogPort = s.analogPort := rfl
@[simp] theorem setLoco_extPort (a : Addr) (l : Loco) (s : State) : (setLoco a l s).extPort = s.extPort := rfl
@[simp] theorem setLoco_agenda (a : Addr) (l : Loco) (s : State) : (setLoco a l s).agenda = s.agenda := rfl
@[simp] theorem setLoco_freeMoves (a : Addr) (l : Loco) (s : State) : (setLoco a l s).freeMoves = s.freeMoves := rfl
@[simp] theorem setLoco_lookups (a : Addr) (l : Loco) (s : State) : (setLoco a l s).lookups = s.lookups := rfl
@[simp] theorem setLoco_polled (a : Addr) (l : Loco) (s : State) : (setLoco a l s).polled = s.polled := rfl
@[simp] theorem setLoco_issuer (a : Addr) (l : Loco) (s : State) : (setLoco a l s).issuer = s.issuer := rfl
@[simp] theorem setLoco_rxPkt (a : Addr) (l : Loco) (s : State) : (setLoco a l s).rxPkt = s.rxPkt := rfl
@[simp] theorem setLoco_outLatch (a : Addr) (l : Loco) (s : State) : (setLoco a l s).outLatch = s.outLatch := rfl

/-! ### `emitTrack` -/

@[simp] theorem emitTrack_arbState (m : Mode) (xs : List Symbol) (s : State) : (emitTrack m xs s).arbState = s.arbState := rfl
@[simp] theorem emitTrack_locos (m : Mode) (xs : List Symbol) (s : State) : (emitTrack m xs s).locos = s.locos := rfl
@[simp] theorem emitTrack_priorityCount (m : Mode) (xs : List Symbol) (s : State) :
    (emitTrack m xs s).priorityCount = s.priorityCount := rfl
@[simp] theorem emitTrack_cfg (m : Mode) (xs : List Symbol) (s : State) : (emitTrack m xs s).cfg = s.cfg := rfl
@[simp] theorem emitTrack_act (m : Mode) (xs : List Symbol) (s : State) : (emitTrack m xs s).act = s.act := rfl
@[simp] theorem emitTrack_curLim (m : Mode) (xs : List Symbol) (s : State) : (emitTrack m xs s).curLim = s.curLim := rfl
@[simp] theorem emitTrack_bidiEn (m : Mode) (xs : List Symbol) (s : State) : (emitTrack m xs s).bidiEn = s.bidiEn := rfl
@[simp] theorem emitTrack_notify (m : Mode) (xs : List Symbol) (s : State) : (emitTrack m xs s).notify = s.notify := rfl
@[simp] theorem emitTrack_frontq (m : Mode) (xs : List Symbol) (s : State) : (emitTrack m xs s).frontq = s.frontq := rfl
@[simp] theorem emitTrack_backq (m : Mode) (xs : List Symbol) (s : State) : (emitTrack m xs s).backq = s.backq := rfl
@[simp] theorem emitTrack_feedbackq (m : Mode) (xs : List Symbol) (s : State) :
    (emitTrack m xs s).feedbackq = s.feedbackq := rfl
@[simp] theorem emitTrack_cvsvc (m : Mode) (xs : List Symbol) (s : State) : (emitTrack m xs s).cvsvc = s.cvsvc := rfl
@[simp] theorem emitTrack_cvpom (m : Mode) (xs : List Symbol) (s : State) : (emitTrack m xs s).cvpom = s.cvpom := rfl
@[simp] theorem emitTrack_ackbuf (m : Mode) (xs : List Symbol) (s : State) : (emitTrack m xs s).ackbuf = s.ackbuf := rfl
@[simp] theorem emitTrack_decupInq (m : Mode) (xs : List Symbol) (s : State) : (emitTrack m xs s).decupInq = s.decupInq := rfl
@[simp] theorem emitTrack_mduInq (m : Mode) (xs : List Symbol) (s : State) : (emitTrack m xs s).mduInq = s.mduInq := rfl
@[simp] theorem emitTrack_decupReply (m : Mode) (xs : List Symbol) (s : State) :
    (emitTrack m xs s).decupReply = s.decupReply := rfl
@[simp] theorem emitTrack_mduReply (m : Mode) (xs : List Symbol) (s : State) : (emitTrack m xs s).mduReply = s.mduReply := rfl
@[simp] theorem emitTrack_uartFifo (m : Mode) (xs : List Symbol) (s : State) : (emitTrack m xs s).uartFifo = s.uartFifo := rfl
@[simp] theorem emitTrack_host (m : Mode) (xs : List Symbol) (s : State) : (emitTrack m xs s).host = s.host := rfl
@[simp] theorem emitTrack_sched (m : Mode) (xs : List Symbol) (s : State) : (emitTrack m xs s).sched = s.sched := rfl
@[simp] theorem emitTrack_dcc (m : Mode) (xs : List Symbol) (s : State) : (emitTrack m xs s).dcc = s.dcc := rfl
@[simp] theorem emitTrack_cutout (m : Mode) (xs : List Symbol) (s : State) : (emitTrack m xs s).cutout = s.cutout := rfl
@[simp] theorem emitTrack_svcack (m : Mode) (xs : List Symbol) (s : State) : (emitTrack m xs s).svcack = s.svcack := rfl
@[simp] theorem emitTrack_decup (m : Mode) (xs : List Symbol) (s : State) : (emitTrack m xs s).decup = s.decup := rfl
@[simp] theorem emitTrack_mdu (m : Mode) (xs : List Symbol) (s : State) : (emitTrack m xs s).mdu = s.mdu := rfl
@[simp] theorem emitTrack_fatal (m : Mode) (xs : List Symbol) (s : State) : (emitTrack m xs s).fatal = s.fatal := rfl
@[simp] theorem emitTrack_events (m : Mode) (xs : List Symbol) (s : State) : (emitTrack m xs s).events = s.events := rfl
@[simp] theorem emitTrack_track (m : Mode) (xs : List Symbol) (s : State) :
    (emitTrack m xs s).track = s.track ++ xs.map fun x => (m, x) := rfl
@[simp] theorem emitTrack_now (m : Mode) (xs : List Symbol) (s : State) : (emitTrack m xs s).now = s.now := rfl
@[simp] theorem emitTrack_hostPort (m : Mode) (xs : List Symbol) (s : State) : (emitTrack m xs s).hostPort = s.hostPort := rfl
@[simp] theorem emitTrack_analogPort (m : Mode) (xs : List Symbol) (s : State) :
    (emitTrack m xs s).analogPort = s.analogPort := rfl
@[simp] theorem emitTrack_extPort (m : Mode) (xs : List Symbol) (s : State) : (emitTrack m xs s).extPort = s.extPort := rfl
@[simp] theorem emitTrack_agenda (m : Mode) (xs : List Symbol) (s : State) : (emitTrack m xs s).agenda = s.agenda := rfl
@[simp] theorem emitTrack_freeMoves (m : Mode) (xs : List Symbol) (s : State) :
    (emitTrack m xs s).freeMoves = s.freeMoves := rfl
@[simp] theorem emitTrack_lookups (m : Mode) (xs : List Symbol) (s : State) : (emitTrack m xs s).lookups = s.lookups := rfl
@[simp] theorem emitTrack_polled (m : Mode) (xs : List Symbol) (s : State) : (emitTrack m xs s).polled = s.polled := rfl
@[simp] theorem emitTrack_issuer (m : Mode) (xs : List Symbol) (s : State) : (emitTrack m xs s).issuer = s.issuer := rfl
@[simp] theorem emitTrack_rxPkt (m : Mode) (xs : List Symbol) (s : State) : (emitTrack m xs s).rxPkt = s.rxPkt := rfl
@[simp] theorem emitTrack_outLatch (m : Mode) (xs : List Symbol) (s : State) : (emitTrack m xs s).outLatch = s.outLatch := rfl

/-! ### `leavePacket` -/

@[simp] theorem leavePacket_arbState (t : Target) (bytes : List Byte) (s : State) :
    (leavePacket t bytes s).arbState = s.arbState := rfl
@[simp] theorem leavePacket_locos (t : Target) (bytes : List Byte) (s : State) : (leavePacket t bytes s).locos = s.locos := rfl
@[simp] theorem leavePacket_priorityCount (t : Target) (bytes : List Byte) (s : State) :
    (leavePacket t bytes s).priorityCount = s.priorityCount := rfl
@[simp] theorem leavePacket_cfg (t : Target) (bytes : List Byte) (s : State) : (leavePacket t bytes s).cfg = s.cfg := rfl
@[simp] theorem leavePacket_act (t : Target) (bytes : List Byte) (s : State) : (leavePacket t bytes s).act = s.act := rfl
@[simp] theorem leavePacket_curLim (t : Target) (bytes : List Byte) (s : State) :
    (leavePacket t bytes s).curLim = s.curLim := rfl
@[simp] theorem leavePacket_bidiEn (t : Target) (bytes : List Byte) (s : State) :
    (leavePacket t bytes s).bidiEn = s.bidiEn := rfl
@[simp] theorem leavePacket_notify (t : Target) (bytes : List Byte) (s : State) :
    (leavePacket t bytes s).notify = s.notify := rfl
@[simp] theorem leavePacket_frontq (t : Target) (bytes : List Byte) (s : State) :
    (leavePacket t bytes s).frontq = s.frontq := rfl
@[simp] theorem leavePacket_backq (t : Target) (bytes : List Byte) (s : State) : (leavePacket t bytes s).backq = s.backq := rfl
@[simp] theorem leavePacket_feedbackq (t : Target) (bytes : List Byte) (s : State) :
    (leavePacket t bytes s).feedbackq = s.feedbackq := rfl
@[simp] theorem leavePacket_cvsvc (t : Target) (bytes : List Byte) (s : State) : (leavePacket t bytes s).cvsvc = s.cvsvc := rfl
@[simp] theorem leavePacket_cvpom (t : Target) (bytes : List Byte) (s : State) : (leavePacket t bytes s).cvpom = s.cvpom := rfl
@[simp] theorem leavePacket_ackbuf (t : Target) (bytes : List Byte) (s : State) :
    (leavePacket t bytes s).ackbuf = s.ackbuf := rfl
@[simp] theorem leavePacket_decupInq (t : Target) (bytes : List Byte) (s : State) :
    (leavePacket t bytes s).decupInq = s.decupInq := rfl
@[simp] theorem leavePacket_mduInq (t : Target) (bytes : List Byte) (s : State) :
    (leavePacket t bytes s).mduInq = s.mduInq := rfl
@[simp] theorem leavePacket_decupReply (t : Target) (bytes : List Byte) (s : State) :
    (leavePacket t bytes s).decupReply = s.decupReply := rfl
@[simp] theorem leavePacket_mduReply (t : Target) (bytes : List Byte) (s : State) :
    (leavePacket t bytes s).mduReply = s.mduReply := rfl
@[simp] theorem leavePacket_uartFifo (t : Target) (bytes : List Byte) (s : State) :
    (leavePacket t bytes s).uartFifo = s.uartFifo := rfl
@[simp] theorem leavePacket_host (t : Target) (bytes : List Byte) (s : State) :
    (leavePacket t bytes s).host = { s.host with phase := .hPush, pend := some { target := t, bytes := bytes, adm := s.arbState } } := rfl
@[simp] theorem leavePacket_sched (t : Target) (bytes : List Byte) (s : State) : (leavePacket t bytes s).sched = s.sched := rfl
@[simp] theorem leavePacket_dcc (t : Target) (bytes : List Byte) (s : State) : (leavePacket t bytes s).dcc = s.dcc := rfl
@[simp] theorem leavePacket_cutout (t : Target) (bytes : List Byte) (s : State) :
    (leavePacket t bytes s).cutout = s.cutout := rfl
@[simp] theorem leavePacket_svcack (t : Target) (bytes : List Byte) (s : State) :
    (leavePacket t bytes s).svcack = s.svcack := rfl
@[simp] theorem leavePacket_decup (t : Target) (bytes : List Byte) (s : State) : (leavePacket t bytes s).decup = s.decup := rfl
@[simp] theorem leavePacket_mdu (t : Target) (bytes : List Byte) (s : State) : (leavePacket t bytes s).mdu = s.mdu := rfl
@[simp] theorem leavePacket_fatal (t : Target) (bytes : List Byte) (s : State) : (leavePacket t bytes s).fatal = s.fatal := rfl
@[simp] theorem leavePacket_events (t : Target) (bytes : List Byte) (s : State) :
    (leavePacket t bytes s).events = s.events := rfl
@[simp] theorem leavePacket_track (t : Target) (bytes : List Byte) (s : State) : (leavePacket t bytes s).track = s.track := rfl
@[simp] theorem leavePacket_now (t : Target) (bytes : List Byte) (s : State) : (leavePacket t bytes s).now = s.now := rfl
@[simp] theorem leavePacket_hostPort (t : Target) (bytes : List Byte) (s : State) :
    (leavePacket t bytes s).hostPort = s.hostPort := rfl
@[simp] theorem leavePacket_analogPort (t : Target) (bytes : List Byte) (s : State) :
    (leavePacket t bytes s).analogPort = s.analogPort := rfl
@[simp] theorem leavePacket_extPort (t : Target) (bytes : List Byte) (s : State) :
    (leavePacket t bytes s).extPort = s.extPort := rfl
@[simp] theorem leavePacket_agenda (t : Target) (bytes : List Byte) (s : State) :
    (leavePacket t bytes s).agenda = s.agenda := rfl
@[simp] theorem leavePacket_freeMoves (t : Target) (bytes : List Byte) (s : State) :
    (leavePacket t bytes s).freeMoves = s.freeMoves := rfl
@[simp] theorem leavePacket_lookups (t : Target) (bytes : List Byte) (s : State) :
    (leavePacket t bytes s).lookups = s.lookups := rfl
@[simp] theorem leavePacket_polled (t : Target) (bytes : List Byte) (s : State) :
    (leavePacket t bytes s).polled = s.polled := rfl
@[simp] theorem leavePacket_issuer (t : Target) (bytes : List Byte) (s : State) :
    (leavePacket t bytes s).issuer = s.issuer := rfl
@[simp] theorem leavePacket_rxPkt (t : Target) (bytes : List Byte) (s : State) : (leavePacket t bytes s).rxPkt = s.rxPkt := rfl
@[simp] theorem leavePacket_outLatch (t : Target) (bytes : List Byte) (s : State) :
    (leavePacket t bytes s).outLatch = s.outLatch := rfl

/-! ### `clearDccQueues` -/

@[simp] theorem clearDccQueues_arbState (s : State) : (clearDccQueues s).arbState = s.arbState := rfl
@[simp] theorem clearDccQueues_locos (s : State) : (clearDccQueues s).locos = s.locos := rfl
@[simp] theorem clearDccQueues_priorityCount (s : State) : (clearDccQueues s).priorityCount = s.priorityCount := rfl
@[simp] theorem clearDccQueues_cfg (s : State) : (clearDccQueues s).cfg = s.cfg := rfl
@[simp] theorem clearDccQueues_act (s : State) : (clearDccQueues s).act = s.act := rfl
@[simp] theorem clearDccQueues_curLim (s : State) : (clearDccQueues s).curLim = s.curLim := rfl
@[simp] theorem clearDccQueues_bidiEn (s : State) : (clearDccQueues s).bidiEn = s.bidiEn := rfl
@[simp] theorem clearDccQueues_notify (s : State) : (clearDccQueues s).notify = s.notify := rfl
@[simp] theorem clearDccQueues_frontq (s : State) : (clearDccQueues s).frontq = [] := rfl
@[simp] theorem clearDccQueues_backq (s : State) : (clearDccQueues s).backq = [] := rfl
@[simp] theorem clearDccQueues_feedbackq (s : State) : (clearDccQueues s).feedbackq = [] := rfl
@[simp] theorem clearDccQueues_cvsvc (s : State) : (clearDccQueues s).cvsvc = s.cvsvc := rfl
@[simp] theorem clearDccQueues_cvpom (s : State) : (clearDccQueues s).cvpom = s.cvpom := rfl
@[simp] theorem clearDccQueues_ackbuf (s : State) : (clearDccQueues s).ackbuf = none := rfl
@[simp] theorem clearDccQueues_decupInq (s : State) : (clearDccQueues s).decupInq = s.decupInq := rfl
@[simp] theorem clearDccQueues_mduInq (s : State) : (clearDccQueues s).mduInq = s.mduInq := rfl
@[simp] theorem clearDccQueues_decupReply (s : State) : (clearDccQueues s).decupReply = s.decupReply := rfl
@[simp] theorem clearDccQueues_mduReply (s : State) : (clearDccQueues s).mduReply = s.mduReply := rfl
@[simp] theorem clearDccQueues_uartFifo (s : State) : (clearDccQueues s).uartFifo = s.uartFifo := rfl
@[simp] theorem clearDccQueues_host (s : State) : (clearDccQueues s).host = s.host := rfl
@[simp] theorem clearDccQueues_sched (s : State) : (clearDccQueues s).sched = s.sched := rfl
@[simp] theorem clearDccQueues_dcc (s : State) : (clearDccQueues s).dcc = s.dcc := rfl
@[simp] theorem clearDccQueues_cutout (s : State) : (clearDccQueues s).cutout = s.cutout := rfl
@[simp] theorem clearDccQueues_svcack (s : State) : (clearDccQueues s).svcack = s.svcack := rfl
@[simp] theorem clearDccQueues_decup (s : State) : (clearDccQueues s).decup = s.decup := rfl
@[simp] theorem clearDccQueues_mdu (s : State) : (clearDccQueues s).mdu = s.mdu := rfl
@[simp] theorem clearDccQueues_fatal (s : State) : (clearDccQueues s).fatal = s.fatal := rfl
@[simp] theorem clearDccQueues_events (s : State) : (clearDccQueues s).events = s.events := rfl
@[simp] theorem clearDccQueues_track (s : State) : (clearDccQueues s).track = s.track := rfl
@[simp] theorem clearDccQueues_now (s : State) : (clearDccQueues s).now = s.now := rfl
@[simp] theorem clearDccQueues_hostPort (s : State) : (clearDccQueues s).hostPort = s.hostPort := rfl
@[simp] theorem clearDccQueues_analogPort (s : State) : (clearDccQueues s).analogPort = s.analogPort := rfl
@[simp] theorem clearDccQueues_extPort (s : State) : (clearDccQueues s).extPort = s.extPort := rfl
@[simp] theorem clearDccQueues_agenda (s : State) : (clearDccQueues s).agenda = s.agenda := rfl
@[simp] theorem clearDccQueues_freeMoves (s : State) : (clearDccQueues s).freeMoves = s.freeMoves := rfl
@[simp] theorem clearDccQueues_lookups (s : State) : (clearDccQueues s).lookups = s.lookups := rfl
@[simp] theorem clearDccQueues_polled (s : State) : (clearDccQueues s).polled = s.polled := rfl
@[simp] theorem clearDccQueues_issuer (s : State) : (clearDccQueues s).issuer = s.issuer := rfl
@[simp] theorem clearDccQueues_rxPkt (s : State) : (clearDccQueues s).rxPkt = s.rxPkt := rfl
@[simp] theorem clearDccQueues_outLatch (s : State) : (clearDccQueues s).outLatch = s.outLatch := rfl

/-! ### `clearDecupQueues` -/

@[simp] theorem clearDecupQueues_arbState (s : State) : (clearDecupQueues s).arbState = s.arbState := rfl
@[simp] theorem clearDecupQueues_locos (s : State) : (clearDecupQueues s).locos = s.locos := rfl
@[simp] theorem clearDecupQueues_priorityCount (s : State) : (clearDecupQueues s).priorityCount = s.priorityCount := rfl
@[simp] theorem clearDecupQueues_cfg (s : State) : (clearDecupQueues s).cfg = s.cfg := rfl
@[simp] theorem clearDecupQueues_act (s : State) : (clearDecupQueues s).act = s.act := rfl
@[simp] theorem clearDecupQueues_curLim (s : State) : (clearDecupQueues s).curLim = s.curLim := rfl
@[simp] theorem clearDecupQueues_bidiEn (s : State) : (clearDecupQueues s).bidiEn = s.bidiEn := rfl
@[simp] theorem clearDecupQueues_notify (s : State) : (clearDecupQueues s).notify = s.notify := rfl
@[simp] theorem clearDecupQueues_frontq (s : State) : (clearDecupQueues s).frontq = s.frontq := rfl
@[simp] theorem clearDecupQueues_backq (s : State) : (clearDecupQueues s).backq = s.backq := rfl
@[simp] theorem clearDecupQueues_feedbackq (s : State) : (clearDecupQueues s).feedbackq = s.feedbackq := rfl
@[simp] theorem clearDecupQueues_cvsvc (s : State) : (clearDecupQueues s).cvsvc = s.cvsvc := rfl
@[simp] theorem clearDecupQueues_cvpom (s : State) : (clearDecupQueues s).cvpom = s.cvpom := rfl
@[simp] theorem clearDecupQueues_ackbuf (s : State) : (clearDecupQueues s).ackbuf = s.ackbuf := rfl
@[simp] theorem clearDecupQueues_decupInq (s : State) : (clearDecupQueues s).decupInq = [] := rfl
@[simp] theorem clearDecupQueues_mduInq (s : State) : (clearDecupQueues s).mduInq = s.mduInq := rfl
@[simp] theorem clearDecupQueues_decupReply (s : State) : (clearDecupQueues s).decupReply = [] := rfl
@[simp] theorem clearDecupQueues_mduReply (s : State) : (clearDecupQueues s).mduReply = s.mduReply := rfl
@[simp] theorem clearDecupQueues_uartFifo (s : State) : (clearDecupQueues s).uartFifo = s.uartFifo := rfl
@[simp] theorem clearDecupQueues_host (s : State) : (clearDecupQueues s).host = s.host := rfl
@[simp] theorem clearDecupQueues_sched (s : State) : (clearDecupQueues s).sched = s.sched := rfl
@[simp] theorem clearDecupQueues_dcc (s : State) : (clearDecupQueues s).dcc = s.dcc := rfl
@[simp] theorem clearDecupQueues_cutout (s : State) : (clearDecupQueues s).cutout = s.cutout := rfl
@[simp] theorem clearDecupQueues_svcack (s : State) : (clearDecupQueues s).svcack = s.svcack := rfl
@[simp] theorem clearDecupQueues_decup (s : State) : (clearDecupQueues s).decup = s.decup := rfl
@[simp] theorem clearDecupQueues_mdu (s : State) : (clearDecupQueues s).mdu = s.mdu := rfl
@[simp] theorem clearDecupQueues_fatal (s : State) : (clearDecupQueues s).fatal = s.fatal := rfl
@[simp] theorem clearDecupQueues_events (s : State) : (clearDecupQueues s).events = s.events := rfl
@[simp] theorem clearDecupQueues_track (s : State) : (clearDecupQueues s).track = s.track := rfl
@[simp] theorem clearDecupQueues_now (s : State) : (clearDecupQueues s).now = s.now := rfl
@[simp] theorem clearDecupQueues_hostPort (s : State) : (clearDecupQueues s).hostPort = s.hostPort := rfl
@[simp] theorem clearDecupQueues_analogPort (s : State) : (clearDecupQueues s).analogPort = s.analogPort := rfl
@[simp] theorem clearDecupQueues_extPort (s : State) : (clearDecupQueues s).extPort = s.extPort := rfl
@[simp] theorem clearDecupQueues_agenda (s : State) : (clearDecupQueues s).agenda = s.agenda := rfl
@[simp] theorem clearDecupQueues_freeMoves (s : State) : (clearDecupQueues s).freeMoves = s.freeMoves := rfl
@[simp] theorem clearDecupQueues_lookups (s : State) : (clearDecupQueues s).lookups = s.lookups := rfl
@[simp] theorem clearDecupQueues_polled (s : State) : (clearDecupQueues s).polled = s.polled := rfl
@[simp] theorem clearDecupQueues_issuer (s : State) : (clearDecupQueues s).issuer = s.issuer := rfl
@[simp] theorem clearDecupQueues_rxPkt (s : State) : (clearDecupQueues s).rxPkt = s.rxPkt := rfl
@[simp] theorem clearDecupQueues_outLatch (s : State) : (clearDecupQueues s).outLatch = s.outLatch := rfl

/-! ### `clearMduQueues` -/

@[simp] theorem clearMduQueues_arbState (s : State) : (clearMduQueues s).arbState = s.arbState := rfl
@[simp] theorem clearMduQueues_locos (s : State) : (clearMduQueues s).locos = s.locos := rfl
@[simp] theorem clearMduQueues_priorityCount (s : State) : (clearMduQueues s).priorityCount = s.priorityCount := rfl
@[simp] theorem clearMduQueues_cfg (s : State) : (clearMduQueues s).cfg = s.cfg := rfl
@[simp] theorem clearMduQueues_act (s : State) : (clearMduQueues s).act = s.act := rfl
@[simp] theorem clearMduQueues_curLim (s : State) : (clearMduQueues s).curLim = s.curLim := rfl
@[simp] theorem clearMduQueues_bidiEn (s : State) : (clearMduQueues s).bidiEn = s.bidiEn := rfl
@[simp] theorem clearMduQueues_notify (s : State) : (clearMduQueues s).notify = s.notify := rfl
@[simp] theorem clearMduQueues_frontq (s : State) : (clearMduQueues s).frontq = s.frontq := rfl
@[simp] theorem clearMduQueues_backq (s : State) : (clearMduQueues s).backq = s.backq := rfl
@[simp] theorem clearMduQueues_feedbackq (s : State) : (clearMduQueues s).feedbackq = s.feedbackq := rfl
@[simp] theorem clearMduQueues_cvsvc (s : State) : (clearMduQueues s).cvsvc = s.cvsvc := rfl
@[simp] theorem clearMduQueues_cvpom (s : State) : (clearMduQueues s).cvpom = s.cvpom := rfl
@[simp] theorem clearMduQueues_ackbuf (s : State) : (clearMduQueues s).ackbuf = s.ackbuf := rfl
@[simp] theorem clearMduQueues_decupInq (s : State) : (clearMduQueues s).decupInq = s.decupInq := rfl
@[simp] theorem clearMduQueues_mduInq (s : State) : (clearMduQueues s).mduInq = [] := rfl
@[simp] theorem clearMduQueues_decupReply (s : State) : (clearMduQueues s).decupReply = s.decupReply := rfl
@[simp] theorem clearMduQueues_mduReply (s : State) : (clearMduQueues s).mduReply = [] := rfl
@[simp] theorem clearMduQueues_uartFifo (s : State) : (clearMduQueues s).uartFifo = s.uartFifo := rfl
@[simp] theorem clearMduQueues_host (s : State) : (clearMduQueues s).host = s.host := rfl
@[simp] theorem clearMduQueues_sched (s : State) : (clearMduQueues s).sched = s.sched := rfl
@[simp] theorem clearMduQueues_dcc (s : State) : (clearMduQueues s).dcc = s.dcc := rfl
@[simp] theorem clearMduQueues_cutout (s : State) : (clearMduQueues s).cutout = s.cutout := rfl
@[simp] theorem clearMduQueues_svcack (s : State) : (clearMduQueues s).svcack = s.svcack := rfl
@[simp] theorem clearMduQueues_decup (s : State) : (clearMduQueues s).decup = s.decup := rfl
@[simp] theorem clearMduQueues_mdu (s : State) : (clearMduQueues s).mdu = s.mdu := rfl
@[simp] theorem clearMduQueues_fatal (s : State) : (clearMduQueues s).fatal = s.fatal := rfl
@[simp] theorem clearMduQueues_events (s : State) : (clearMduQueues s).events = s.events := rfl
@[simp] theorem clearMduQueues_track (s : State) : (clearMduQueues s).track = s.track := rfl
@[simp] theorem clearMduQueues_now (s : State) : (clearMduQueues s).now = s.now := rfl
@[simp] theorem clearMduQueues_hostPort (s : State) : (clearMduQueues s).hostPort = s.hostPort := rfl
@[simp] theorem clearMduQueues_analogPort (s : State) : (clearMduQueues s).analogPort = s.analogPort := rfl
@[simp] theorem clearMduQueues_extPort (s : State) : (clearMduQueues s).extPort = s.extPort := rfl
@[simp] theorem clearMduQueues_agenda (s : State) : (clearMduQueues s).agenda = s.agenda := rfl
@[simp] theorem clearMduQueues_freeMoves (s : State) : (clearMduQueues s).freeMoves = s.freeMoves := rfl
@[simp] theorem clearMduQueues_lookups (s : State) : (clearMduQueues s).lookups = s.lookups := rfl
@[simp] theorem clearMduQueues_polled (s : State) : (clearMduQueues s).polled = s.polled := rfl
@[simp] theorem clearMduQueues_issuer (s : State) : (clearMduQueues s).issuer = s.issuer := rfl
@[simp] theorem clearMduQueues_rxPkt (s : State) : (clearMduQueues s).rxPkt = s.rxPkt := rfl
@[simp] theorem clearMduQueues_outLatch (s : State) : (clearMduQueues s).outLatch = s.outLatch := rfl

/-! ### `took` -/

@[simp] theorem took_arbState (rest : List Move) (s : State) : (took rest s).arbState = s.arbState := rfl
@[simp] theorem took_locos (rest : List Move) (s : State) : (took rest s).locos = s.locos := rfl
@[simp] theorem took_priorityCount (rest : List Move) (s : State) : (took rest s).priorityCount = s.priorityCount := rfl
@[simp] theorem took_cfg (rest : List Move) (s : State) : (took rest s).cfg = s.cfg := rfl
@[simp] theorem took_act (rest : List Move) (s : State) : (took rest s).act = s.act := rfl
@[simp] theorem took_curLim (rest : List Move) (s : State) : (took rest s).curLim = s.curLim := rfl
@[simp] theorem took_bidiEn (rest : List Move) (s : State) : (took rest s).bidiEn = s.bidiEn := rfl
@[simp] theorem took_notify (rest : List Move) (s : State) : (took rest s).notify = s.notify := rfl
@[simp] theorem took_frontq (rest : List Move) (s : State) : (took rest s).frontq = s.frontq := rfl
@[simp] theorem took_backq (rest : List Move) (s : State) : (took rest s).backq = s.backq := rfl
@[simp] theorem took_feedbackq (rest : List Move) (s : State) : (took rest s).feedbackq = s.feedbackq := rfl
@[simp] theorem took_cvsvc (rest : List Move) (s : State) : (took rest s).cvsvc = s.cvsvc := rfl
@[simp] theorem took_cvpom (rest : List Move) (s : State) : (took rest s).cvpom = s.cvpom := rfl
@[simp] theorem took_ackbuf (rest : List Move) (s : State) : (took rest s).ackbuf = s.ackbuf := rfl
@[simp] theorem took_decupInq (rest : List Move) (s : State) : (took rest s).decupInq = s.decupInq := rfl
@[simp] theorem took_mduInq (rest : List Move) (s : State) : (took rest s).mduInq = s.mduInq := rfl
@[simp] theorem took_decupReply (rest : List Move) (s : State) : (took rest s).decupReply = s.decupReply := rfl
@[simp] theorem took_mduReply (rest : List Move) (s : State) : (took rest s).mduReply = s.mduReply := rfl
@[simp] theorem took_uartFifo (rest : List Move) (s : State) : (took rest s).uartFifo = s.uartFifo := rfl
@[simp] theorem took_host (rest : List Move) (s : State) : (took rest s).host = s.host := rfl
@[simp] theorem took_sched (rest : List Move) (s : State) : (took rest s).sched = s.sched := rfl
@[simp] theorem took_dcc (rest : List Move) (s : State) : (took rest s).dcc = s.dcc := rfl
@[simp] theorem took_cutout (rest : List Move) (s : State) : (took rest s).cutout = s.cutout := rfl
@[simp] theorem took_svcack (rest : List Move) (s : State) : (took rest s).svcack = s.svcack := rfl
@[simp] theorem took_decup (rest : List Move) (s : State) : (took rest s).decup = s.decup := rfl
@[simp] theorem took_mdu (rest : List Move) (s : State) : (took rest s).mdu = s.mdu := rfl
@[simp] theorem took_fatal (rest : List Move) (s : State) : (took rest s).fatal = s.fatal := rfl
@[simp] theorem took_events (rest : List Move) (s : State) : (took rest s).events = s.events := rfl
@[simp] theorem took_track (rest : List Move) (s : State) : (took rest s).track = s.track := rfl
@[simp] theorem took_now (rest : List Move) (s : State) : (took rest s).now = s.now := rfl
@[simp] theorem took_hostPort (rest : List Move) (s : State) : (took rest s).hostPort = s.hostPort := rfl
@[simp] theorem took_analogPort (rest : List Move) (s : State) : (took rest s).analogPort = s.analogPort := rfl
@[simp] theorem took_extPort (rest : List Move) (s : State) : (took rest s).extPort = s.extPort := rfl
@[simp] theorem took_agenda (rest : List Move) (s : State) : (took rest s).agenda = rest := rfl
@[simp] theorem took_freeMoves (rest : List Move) (s : State) : (took rest s).freeMoves = s.freeMoves := rfl
@[simp] theorem took_lookups (rest : List Move) (s : State) : (took rest s).lookups = s.lookups := rfl
@[simp] theorem took_polled (rest : List Move) (s : State) : (took rest s).polled = s.polled := rfl
@[simp] theorem took_issuer (rest : List Move) (s : State) : (took rest s).issuer = s.issuer := rfl
@[simp] theorem took_rxPkt (rest : List Move) (s : State) : (took rest s).rxPkt = s.rxPkt := rfl
@[simp] theorem took_outLatch (rest : List Move) (s : State) : (took rest s).outLatch = s.outLatch := rfl

/-! ### `blockState` -/

@[simp] theorem blockState_arbState (s : State) : (blockState s).arbState = s.arbState := rfl
@[simp] theorem blockState_locos (s : State) : (blockState s).locos = s.locos := rfl
@[simp] theorem blockState_priorityCount (s : State) : (blockState s).priorityCount = s.priorityCount := rfl
@[simp] theorem blockState_cfg (s : State) : (blockState s).cfg = s.cfg := rfl
@[simp] theorem blockState_act (s : State) : (blockState s).act = s.act := rfl
@[simp] theorem blockState_curLim (s : State) : (blockState s).curLim = s.curLim := rfl
@[simp] theorem blockState_bidiEn (s : State) : (blockState s).bidiEn = s.bidiEn := rfl
@[simp] theorem blockState_notify (s : State) : (blockState s).notify = s.notify := rfl
@[simp] theorem blockState_frontq (s : State) : (blockState s).frontq = s.frontq := rfl
@[simp] theorem blockState_backq (s : State) : (blockState s).backq = s.backq := rfl
@[simp] theorem blockState_feedbackq (s : State) : (blockState s).feedbackq = s.feedbackq := rfl
@[simp] theorem blockState_cvsvc (s : State) : (blockState s).cvsvc = s.cvsvc := rfl
@[simp] theorem blockState_cvpom (s : State) : (blockState s).cvpom = s.cvpom := rfl
@[simp] theorem blockState_ackbuf (s : State) : (blockState s).ackbuf = s.ackbuf := rfl
@[simp] theorem blockState_decupInq (s : State) : (blockState s).decupInq = s.decupInq := rfl
@[simp] theorem blockState_mduInq (s : State) : (blockState s).mduInq = s.mduInq := rfl
@[simp] theorem blockState_decupReply (s : State) : (blockState s).decupReply = s.decupReply := rfl
@[simp] theorem blockState_mduReply (s : State) : (blockState s).mduReply = s.mduReply := rfl
@[simp] theorem blockState_uartFifo (s : State) : (blockState s).uartFifo = s.uartFifo := rfl
@[simp] theorem blockState_host (s : State) : (blockState s).host = s.host := rfl
@[simp] theorem blockState_sched (s : State) : (blockState s).sched = s.sched := rfl
@[simp] theorem blockState_dcc (s : State) : (blockState s).dcc = s.dcc := rfl
@[simp] theorem blockState_cutout (s : State) : (blockState s).cutout = s.cutout := rfl
@[simp] theorem blockState_svcack (s : State) : (blockState s).svcack = s.svcack := rfl
@[simp] theorem blockState_decup (s : State) : (blockState s).decup = s.decup := rfl
@[simp] theorem blockState_mdu (s : State) : (blockState s).mdu = s.mdu := rfl
@[simp] theorem blockState_fatal (s : State) : (blockState s).fatal = s.fatal := rfl
@[simp] theorem blockState_events (s : State) : (blockState s).events = s.events := rfl
@[simp] theorem blockState_track (s : State) : (blockState s).track = s.track := rfl
@[simp] theorem blockState_now (s : State) : (blockState s).now = s.now := rfl
@[simp] theorem blockState_hostPort (s : State) : (blockState s).hostPort = s.hostPort := rfl
@[simp] theorem blockState_analogPort (s : State) : (blockState s).analogPort = s.analogPort := rfl
@[simp] theorem blockState_extPort (s : State) : (blockState s).extPort = s.extPort := rfl

@[simp] theorem blockState_took (rest : List Move) (s : State) : blockState (took rest s) = blockState s := rfl
@[simp] theorem blockState_blockState (s : State) : blockState (blockState s) = blockState s := rfl

end Sys2Proof.Machine
end

