-- ==== Sys2Proof/Laws/Ops.lean ====
section
/-! SUPPORT. What each shared operation can do, said once. -/

namespace Sys2Proof.Machine

/-! ### `STATE` values (R110, R111) -/

@[simp] theorem modeOfState_modeValue (m : Mode) : modeOfState (modeValue m) = some m := by
  cases m <;> decide

theorem modeValue_injective {m n : Mode} (h : modeValue m = modeValue n) : m = n := by
  have := congrArg modeOfState h
  simpa using this

theorem modeValue_ne_suspended (m : Mode) : modeValue m ≠ stSuspended := by cases m <;> decide
theorem modeValue_ne_suspend (m : Mode) : modeValue m ≠ stSuspend := by cases m <;> decide
theorem modeValue_ne_short (m : Mode) : modeValue m ≠ stShort := by cases m <;> decide

@[simp] theorem modeOfState_suspended : modeOfState stSuspended = none := by decide
@[simp] theorem modeOfState_suspend : modeOfState stSuspend = none := by decide
@[simp] theorem modeOfState_short : modeOfState stShort = none := by decide

/-- A legal id is the id of its mode. -/
theorem id_of_ofId {b : BitVec 8} {m : Mode} (h : Mode.ofId b = some m) : m.id = b := by
  revert h; revert b; cases m <;> decide

theorem ofId_id (m : Mode) : Mode.ofId m.id = some m := by cases m <;> decide

/-! ### `cas`, mode exit and mode entry -/

/-- All that a CAS can do (R10, R92). -/
theorem cas_eq_some {old new : BitVec 16} {s t : State} (h : cas old new s = some t) :
    s.arbState = old ∧ t = { s with arbState := new } := by
  unfold cas at h
  split at h <;> simp_all

theorem cas_eq_none {old new : BitVec 16} {s : State} (h : cas old new s = none) : s.arbState ≠ old := by
  unfold cas at h
  split at h <;> simp_all

/-- All that a terminal write can leave in `STATE` (R208). -/
theorem terminalValue_eq_some {own : Option Mode} {v w : BitVec 16} (h : terminalValue own v = some w) :
    (w = stSuspended ∧ (v = stSuspend ∨ own.map modeValue = some v)) ∨ (w = stShort ∧ v = stShort) := by
  unfold terminalValue at h
  split at h
  · rename_i h1; cases h; exact .inl ⟨rfl, h1⟩
  · split at h
    · rename_i h1; cases h; exact .inr ⟨rfl, h1⟩
    · cases h

/-- All that a mode entry writes: `STATE` and one resume flag, of the driver that owns the mode (R201 (d), R209). -/
theorem enterMode_eq (m : Mode) (s : State) :
    enterMode m s =
      { s with
        arbState := modeValue m
        dcc := { s.dcc with resume := s.dcc.resume || decide (driverOf m = .dcc) }
        decup := { s.decup with resume := s.decup.resume || decide (driverOf m = .decup) }
        mdu := { s.mdu with resume := s.mdu.resume || decide (driverOf m = .mdu) } } := by
  cases m <;> simp [enterMode, driverOf]

/-! ### Responses -/

/-- A response changes the ports and HOST's registers alone, and of these only the issuer's (R116, R200). -/
theorem respond_frame (st : Byte) (v : BitVec 56) (s : State) :
    ∃ hp h ap ep, respond st v s = { s with hostPort := hp, host := h, analogPort := ap, extPort := ep } ∧
      (s.issuer ≠ .host → hp = s.hostPort ∧ h = s.host) ∧ (s.issuer ≠ .analog → ap = s.analogPort) ∧
      (s.issuer ≠ .ext → ep = s.extPort) := by
  unfold respond complete putResponse
  cases h : s.issuer
  · exact ⟨portAnswer (responseWord st v) s.hostPort, { phase := .hIdle, cmd := none, pend := none }, s.analogPort, s.extPort,
      by simp⟩
  · exact ⟨s.hostPort, s.host,
      { (portAnswer (responseWord st v) s.analogPort) with
        cmds := dropCommand (portAnswer (responseWord st v) s.analogPort).cmds }, s.extPort, by simp⟩
  · exact ⟨s.hostPort, s.host, s.analogPort,
      { (portAnswer (responseWord st v) s.extPort) with
        cmds := dropCommand (portAnswer (responseWord st v) s.extPort).cmds }, by simp⟩

@[simp] theorem respond_arbState (st : Byte) (v : BitVec 56) (s : State) : (respond st v s).arbState = s.arbState := by
  obtain ⟨_, _, _, _, h, _⟩ := respond_frame st v s; rw [h]
@[simp] theorem respond_locos (st : Byte) (v : BitVec 56) (s : State) : (respond st v s).locos = s.locos := by
  obtain ⟨_, _, _, _, h, _⟩ := respond_frame st v s; rw [h]
@[simp] theorem respond_priorityCount (st : Byte) (v : BitVec 56) (s : State) : (respond st v s).priorityCount = s.priorityCount := by
  obtain ⟨_, _, _, _, h, _⟩ := respond_frame st v s; rw [h]
@[simp] theorem respond_cfg (st : Byte) (v : BitVec 56) (s : State) : (respond st v s).cfg = s.cfg := by
  obtain ⟨_, _, _, _, h, _⟩ := respond_frame st v s; rw [h]
@[simp] theorem respond_act (st : Byte) (v : BitVec 56) (s : State) : (respond st v s).act = s.act := by
  obtain ⟨_, _, _, _, h, _⟩ := respond_frame st v s; rw [h]
@[simp] theorem respond_curLim (st : Byte) (v : BitVec 56) (s : State) : (respond st v s).curLim = s.curLim := by
  obtain ⟨_, _, _, _, h, _⟩ := respond_frame st v s; rw [h]
@[simp] theorem respond_bidiEn (st : Byte) (v : BitVec 56) (s : State) : (respond st v s).bidiEn = s.bidiEn := by
  obtain ⟨_, _, _, _, h, _⟩ := respond_frame st v s; rw [h]
@[simp] theorem respond_notify (st : Byte) (v : BitVec 56) (s : State) : (respond st v s).notify = s.notify := by
  obtain ⟨_, _, _, _, h, _⟩ := respond_frame st v s; rw [h]
@[simp] theorem respond_frontq (st : Byte) (v : BitVec 56) (s : State) : (respond st v s).frontq = s.frontq := by
  obtain ⟨_, _, _, _, h, _⟩ := respond_frame st v s; rw [h]
@[simp] theorem respond_backq (st : Byte) (v : BitVec 56) (s : State) : (respond st v s).backq = s.backq := by
  obtain ⟨_, _, _, _, h, _⟩ := respond_frame st v s; rw [h]
@[simp] theorem respond_feedbackq (st : Byte) (v : BitVec 56) (s : State) : (respond st v s).feedbackq = s.feedbackq := by
  obtain ⟨_, _, _, _, h, _⟩ := respond_frame st v s; rw [h]
@[simp] theorem respond_cvsvc (st : Byte) (v : BitVec 56) (s : State) : (respond st v s).cvsvc = s.cvsvc := by
  obtain ⟨_, _, _, _, h, _⟩ := respond_frame st v s; rw [h]
@[simp] theorem respond_cvpom (st : Byte) (v : BitVec 56) (s : State) : (respond st v s).cvpom = s.cvpom := by
  obtain ⟨_, _, _, _, h, _⟩ := respond_frame st v s; rw [h]
@[simp] theorem respond_ackbuf (st : Byte) (v : BitVec 56) (s : State) : (respond st v s).ackbuf = s.ackbuf := by
  obtain ⟨_, _, _, _, h, _⟩ := respond_frame st v s; rw [h]
@[simp] theorem respond_decupInq (st : Byte) (v : BitVec 56) (s : State) : (respond st v s).decupInq = s.decupInq := by
  obtain ⟨_, _, _, _, h, _⟩ := respond_frame st v s; rw [h]
@[simp] theorem respond_mduInq (st : Byte) (v : BitVec 56) (s : State) : (respond st v s).mduInq = s.mduInq := by
  obtain ⟨_, _, _, _, h, _⟩ := respond_frame st v s; rw [h]
@[simp] theorem respond_decupReply (st : Byte) (v : BitVec 56) (s : State) : (respond st v s).decupReply = s.decupReply := by
  obtain ⟨_, _, _, _, h, _⟩ := respond_frame st v s; rw [h]
@[simp] theorem respond_mduReply (st : Byte) (v : BitVec 56) (s : State) : (respond st v s).mduReply = s.mduReply := by
  obtain ⟨_, _, _, _, h, _⟩ := respond_frame st v s; rw [h]
@[simp] theorem respond_uartFifo (st : Byte) (v : BitVec 56) (s : State) : (respond st v s).uartFifo = s.uartFifo := by
  obtain ⟨_, _, _, _, h, _⟩ := respond_frame st v s; rw [h]
@[simp] theorem respond_sched (st : Byte) (v : BitVec 56) (s : State) : (respond st v s).sched = s.sched := by
  obtain ⟨_, _, _, _, h, _⟩ := respond_frame st v s; rw [h]
@[simp] theorem respond_dcc (st : Byte) (v : BitVec 56) (s : State) : (respond st v s).dcc = s.dcc := by
  obtain ⟨_, _, _, _, h, _⟩ := respond_frame st v s; rw [h]
@[simp] theorem respond_cutout (st : Byte) (v : BitVec 56) (s : State) : (respond st v s).cutout = s.cutout := by
  obtain ⟨_, _, _, _, h, _⟩ := respond_frame st v s; rw [h]
@[simp] theorem respond_svcack (st : Byte) (v : BitVec 56) (s : State) : (respond st v s).svcack = s.svcack := by
  obtain ⟨_, _, _, _, h, _⟩ := respond_frame st v s; rw [h]
@[simp] theorem respond_decup (st : Byte) (v : BitVec 56) (s : State) : (respond st v s).decup = s.decup := by
  obtain ⟨_, _, _, _, h, _⟩ := respond_frame st v s; rw [h]
@[simp] theorem respond_mdu (st : Byte) (v : BitVec 56) (s : State) : (respond st v s).mdu = s.mdu := by
  obtain ⟨_, _, _, _, h, _⟩ := respond_frame st v s; rw [h]
@[simp] theorem respond_fatal (st : Byte) (v : BitVec 56) (s : State) : (respond st v s).fatal = s.fatal := by
  obtain ⟨_, _, _, _, h, _⟩ := respond_frame st v s; rw [h]
@[simp] theorem respond_events (st : Byte) (v : BitVec 56) (s : State) : (respond st v s).events = s.events := by
  obtain ⟨_, _, _, _, h, _⟩ := respond_frame st v s; rw [h]
@[simp] theorem respond_track (st : Byte) (v : BitVec 56) (s : State) : (respond st v s).track = s.track := by
  obtain ⟨_, _, _, _, h, _⟩ := respond_frame st v s; rw [h]
@[simp] theorem respond_now (st : Byte) (v : BitVec 56) (s : State) : (respond st v s).now = s.now := by
  obtain ⟨_, _, _, _, h, _⟩ := respond_frame st v s; rw [h]
@[simp] theorem respond_agenda (st : Byte) (v : BitVec 56) (s : State) : (respond st v s).agenda = s.agenda := by
  obtain ⟨_, _, _, _, h, _⟩ := respond_frame st v s; rw [h]
@[simp] theorem respond_freeMoves (st : Byte) (v : BitVec 56) (s : State) : (respond st v s).freeMoves = s.freeMoves := by
  obtain ⟨_, _, _, _, h, _⟩ := respond_frame st v s; rw [h]
@[simp] theorem respond_lookups (st : Byte) (v : BitVec 56) (s : State) : (respond st v s).lookups = s.lookups := by
  obtain ⟨_, _, _, _, h, _⟩ := respond_frame st v s; rw [h]
@[simp] theorem respond_polled (st : Byte) (v : BitVec 56) (s : State) : (respond st v s).polled = s.polled := by
  obtain ⟨_, _, _, _, h, _⟩ := respond_frame st v s; rw [h]
@[simp] theorem respond_issuer (st : Byte) (v : BitVec 56) (s : State) : (respond st v s).issuer = s.issuer := by
  obtain ⟨_, _, _, _, h, _⟩ := respond_frame st v s; rw [h]
@[simp] theorem respond_rxPkt (st : Byte) (v : BitVec 56) (s : State) : (respond st v s).rxPkt = s.rxPkt := by
  obtain ⟨_, _, _, _, h, _⟩ := respond_frame st v s; rw [h]
@[simp] theorem respond_outLatch (st : Byte) (v : BitVec 56) (s : State) : (respond st v s).outLatch = s.outLatch := by
  obtain ⟨_, _, _, _, h, _⟩ := respond_frame st v s; rw [h]

/-- After a response to HOST, HOST is idle with no packet waiting; another issuer leaves HOST as it is (R231). -/
theorem respond_pend {st : Byte} {v : BitVec 56} {s : State} {p : Pending} (h : (respond st v s).host.pend = some p) :
    s.host.pend = some p := by
  unfold respond complete putResponse at h
  cases hi : s.issuer <;> simp [hi] at h <;> exact h

/-! ### The loco table and its commands -/

/-- All that `get_or_create` can do (R230). -/
theorem getOrCreate_eq (P : Params) (a : Addr) (s : State) :
    getOrCreate P a s =
      if (locoGet a s.locos).isSome = true ∨ s.locos.length < P.locoMax then
        some (locoRecord P a s,
          if (locoGet a s.locos).isSome then s else { lookedUp a s with locos := locoPut a (locoRecord P a s) s.locos })
      else none := by
  unfold getOrCreate locoRecord lookedUp
  cases h : locoGet a s.locos <;> simp

/-- A second write of a record leaves what the first would have been (R23). -/
theorem locoPut_locoPut (a : Addr) (l l' : Loco) (t : List (Addr × Loco)) : locoPut a l' (locoPut a l t) = locoPut a l' t := by
  induction t with
  | nil => simp [locoPut]
  | cons h t ih =>
    obtain ⟨b, r⟩ := h
    simp only [locoPut]
    split
    · simp [locoPut]
    · rename_i h1
      split
      · simp [locoPut]
      · rename_i h2; simp [locoPut, h1, h2, ih]

theorem storeLoco_eq (a : Addr) (l : Loco) (s : State) : storeLoco a l s = locoStored a l s := by
  simp [storeLoco, setLoco, emitPersist, emitLocoInfo, putEvent, eventWords, locoStored]

/-- What a loco command stores does not depend on whether the record was created for it. -/
theorem storeLoco_created (P : Params) (a : Addr) (l : Loco) (s : State) :
    storeLoco a l
        (if (locoGet a s.locos).isSome = true then s
          else { lookedUp a s with locos := locoPut a (locoRecord P a s) s.locos }) =
      locoStored a l (lookedUp a s) := by
  rw [storeLoco_eq]
  cases h : locoGet a s.locos <;> simp [locoStored, lookedUp, h, locoPut_locoPut]

theorem injectPacket_eq (pkt : List Byte) (s : State) : injectPacket pkt s = .next (locoAnswered pkt s) := by
  unfold injectPacket locoAnswered; split <;> rfl

/-! ### Packets -/

/-- All that the selection of a packet can do (R354 (a)). -/
theorem selectPacket_cases (m : Mode) (s : State) :
    (∃ e more, s.frontq = e :: more ∧ selectPacket m s = (e, { s with frontq := more })) ∨
    (∃ e more, s.frontq = [] ∧ s.backq = e :: more ∧ selectPacket m s = (e, { s with backq := more })) ∨
    (s.frontq = [] ∧ s.backq = [] ∧ selectPacket m s = (fillerPacket m, s)) := by
  cases hf : s.frontq with
  | cons e more => exact .inl ⟨e, more, rfl, by simp [selectPacket, hf]⟩
  | nil =>
    cases hb : s.backq with
    | cons e more => exact .inr (.inl ⟨e, more, rfl, rfl, by simp [selectPacket, hf, hb]⟩)
    | nil => exact .inr (.inr ⟨rfl, rfl, by simp [selectPacket, hf, hb]⟩)

/-- All that the transmission of a packet can do: it starts, it faults for want of a setting, or nothing is selected (R354, R504). -/
theorem transmitPacket_cases (P : Params) (bytes : List Byte) (s : State) :
    (∃ m t, s.dcc.phase = .dSelect ∧ s.dcc.mode = some m ∧ dccTiming P m s.dcc.bidiOn s.act = some t ∧
      transmitPacket P bytes s =
        { s with
          track := s.track ++ (dccSymbols t bytes).map fun x => (m, x)
          dcc := { s.dcc with txEnd := s.now + dccDuration t bytes, phase := .dTx } }) ∨
    transmitPacket P bytes s = raiseFault .uninitSetting .dccdrv (.dccdrv .dSelect) s ∨ transmitPacket P bytes s = s := by
  unfold transmitPacket
  split
  · rename_i m hp hm
    split
    · rename_i t ht; exact .inl ⟨m, t, hp, hm, ht, rfl⟩
    · exact .inr (.inl rfl)
  · exact .inr (.inr rfl)

/-- All that a push to `FEEDBACKQ` can do: append, or drop where it is full (R357). -/
theorem pushFeedback_eq (P : Params) (f : Option Feedback) (s : State) :
    pushFeedback P f s =
      { s with feedbackq := if s.feedbackq.length < P.feedbackCap then s.feedbackq ++ f.toList else s.feedbackq } := by
  unfold pushFeedback
  cases f <;> simp
  split <;> simp

/-! ### The abandon step (R290) -/

/-- Every queued CV request is answered in order, service requests first. -/
theorem nackAll_eq (s : State) :
    nackAll s =
      { s with
        events :=
          s.events ++
            s.cvsvc.map (fun e => eventWord (if s.arbState = stShort then 0x03#8 else 0x02#8) 0 e.cvi 0) ++
            s.cvpom.map fun e => eventWord (if s.arbState = stShort then 0x03#8 else 0x02#8) e.addr e.cvi 0 } := by
  have hs : ∀ (b : Bool) (l : List SvcReq) (u : State),
      l.foldl (fun t e => emitNack b 0 e.cvi t) u =
        { u with events := u.events ++ l.map fun e => eventWord (if b then 0x03#8 else 0x02#8) 0 e.cvi 0 } := by
    intro b l
    induction l with
    | nil => simp
    | cons e l ih =>
      intro u
      rw [List.foldl_cons, ih]
      cases b <;> simp [emitNack, emitCvNackSc, emitCvNack, putEvent, eventWords]
  have hp : ∀ (b : Bool) (l : List PomReq) (u : State),
      l.foldl (fun t e => emitNack b e.addr e.cvi t) u =
        { u with events := u.events ++ l.map fun e => eventWord (if b then 0x03#8 else 0x02#8) e.addr e.cvi 0 } := by
    intro b l
    induction l with
    | nil => simp
    | cons e l ih =>
      intro u
      rw [List.foldl_cons, ih]
      cases b <;> simp [emitNack, emitCvNackSc, emitCvNack, putEvent, eventWords]
  simp only [nackAll, hs, hp]
  by_cases h : s.arbState = stShort <;> simp [h]

/-! ### Sealed packets (R132, R301) -/

@[simp] theorem xorAll_append_singleton (bs : List Byte) (x : Byte) : xorAll (bs ++ [x]) = xorAll bs ^^^ x := by
  simp [xorAll]

/-- A sealed packet is checksum-valid. -/
@[simp] theorem xorAll_sealPacket (bs : List Byte) : xorAll (sealPacket bs) = 0 := by
  simp [sealPacket]

@[simp] theorem length_sealPacket (bs : List Byte) : (sealPacket bs).length = bs.length + 1 := by
  simp [sealPacket]

theorem length_addrPrefix (a : Addr) : (addrPrefix a).length = if a.toNat ≤ 127 then 1 else 2 := by
  unfold addrPrefix; split <;> rfl

end Sys2Proof.Machine
end

