-- ==== Sys2Proof/Laws/Arbiter.lean ====
section
/-! SUPPORT. How each kind of write of `STATE` keeps the arbitration invariant (R208 to R213). -/

namespace Sys2Proof.Machine

@[simp] theorem arbView_respond (st : Byte) (v : BitVec 56) (s : State) : arbView (respond st v s) = arbView s := by
  simp [arbView]

/-- `STATE` holds the value of the mode it is read as (R110). -/
theorem eq_modeValue_of_modeOfState {v : BitVec 16} {m : Mode} (h : modeOfState v = some m) : v = modeValue m := by
  unfold modeOfState at h
  split at h
  · rename_i h0
    have hv : v = (v.extractLsb' 8 8 ++ v.extractLsb' 0 8).cast (by decide) := by
      apply BitVec.eq_of_getLsbD_eq
      intro i hi
      simp only [BitVec.getLsbD_cast, BitVec.getLsbD_append, BitVec.getLsbD_extractLsb']
      by_cases h8 : i < 8
      · simp [h8]
      · simp only [h8, decide_false, Bool.false_and, if_false]
        have : i - 8 < 8 := by omega
        simp [this]; congr 1; omega
    have hid : v.extractLsb' 8 8 = m.id := by
      generalize v.extractLsb' 8 8 = b at h
      unfold Mode.ofId at h
      split at h <;> simp at h
      all_goals (subst h; rename_i hb; apply BitVec.eq_of_toNat_eq; rw [hb]; decide)
    rw [hv, hid, h0]; rfl
  · cases h

@[simp] theorem stateOwnedBy_suspended (d : Driver) : stateOwnedBy d stSuspended = false := by cases d <;> decide
@[simp] theorem stateOwnedBy_suspend (d : Driver) : stateOwnedBy d stSuspend = false := by cases d <;> decide
@[simp] theorem stateOwnedBy_short (d : Driver) : stateOwnedBy d stShort = false := by cases d <;> decide
@[simp] theorem stateOwnedBy_modeValue (d : Driver) (m : Mode) : stateOwnedBy d (modeValue m) = decide (driverOf m = d) := by
  simp [stateOwnedBy, modeOfState_modeValue]
@[simp] theorem stateLegal_modeValue (m : Mode) : stateLegal (modeValue m) = true := by simp [stateLegal, modeOfState_modeValue]
@[simp] theorem stateLegal_suspended : stateLegal stSuspended = true := by decide
@[simp] theorem stateLegal_suspend : stateLegal stSuspend = true := by decide
@[simp] theorem stateLegal_short : stateLegal stShort = true := by decide
theorem modeValue_ne_others (m : Mode) : modeValue m ≠ stSuspended ∧ modeValue m ≠ stSuspend ∧ modeValue m ≠ stShort := by cases m <;> decide

/-- No driver runs or is resumed. -/
def quietView (w : ArbView) : Bool := !w.dcc.engaged && !w.decup.engaged && !w.mdu.engaged

/-- The arbitration invariant, clause by clause. -/
theorem arbViewInv_iff {w : ArbView} : arbViewInv w = true ↔ leaveInv w = true ∧ stateLegal w.value = true ∧
    driverInv .dcc w.dcc w.value = true ∧ driverInv .decup w.decup w.value = true ∧ driverInv .mdu w.mdu w.value = true ∧
    (w.dcc.engaged && w.decup.engaged) = false ∧ (w.dcc.engaged && w.mdu.engaged) = false ∧ (w.decup.engaged && w.mdu.engaged) = false := by
  unfold arbViewInv
  simp only [Bool.and_eq_true, Bool.not_eq_true']
  tauto

/-- `Suspend` and `ShortCircuit` may be written at any time: each driver keeps its invariant (R202, R204). -/
theorem driverInv_stop {d x v} (h : driverInv d x v = true) : driverInv d x stSuspend = true ∧ driverInv d x stShort = true := by
  unfold driverInv at *
  simp only [Bool.and_eq_true] at h
  simp only [h.1.2, stateOwnedBy_suspend, stateOwnedBy_short, engagedState, beq_self_eq_true, Bool.true_or, Bool.or_true, Bool.not_false, Bool.and_self, and_self]

/-- So does a driver that leaves. -/
theorem leaveInv_stop {w : ArbView} (h : leaveInv w = true) : leaveInv { w with value := stSuspend } = true ∧ leaveInv { w with value := stShort } = true := by
  unfold leaveInv at *
  simp only [Bool.or_eq_true, Bool.and_eq_true, beq_self_eq_true, true_or, or_true, and_true] at *
  tauto

/-- `SUSPEND` keeps the invariant. -/
theorem arbViewInv_suspend {w : ArbView} (h : arbViewInv w = true) : arbViewInv { w with value := stSuspend } = true := by
  rw [arbViewInv_iff] at *
  obtain ⟨h0, h1, h2, h3, h4, h5⟩ := h
  exact ⟨(leaveInv_stop h0).1, by simp, (driverInv_stop h2).1, (driverInv_stop h3).1, (driverInv_stop h4).1, h5⟩

/-- `SHORT` keeps the invariant. -/
theorem arbViewInv_short {w : ArbView} (h : arbViewInv w = true) : arbViewInv { w with value := stShort } = true := by
  rw [arbViewInv_iff] at *
  obtain ⟨h0, h1, h2, h3, h4, h5⟩ := h
  exact ⟨(leaveInv_stop h0).2, by simp, (driverInv_stop h2).2, (driverInv_stop h3).2, (driverInv_stop h4).2, h5⟩

/-- While `STATE` is `Suspended` a driver is not engaged (R211 (b)). -/
theorem driverInv_suspended {d x} (h : driverInv d x stSuspended = true) : x.engaged = false := by
  unfold driverInv engagedState at h
  simp only [Bool.and_eq_true, stateOwnedBy_suspended, show (stSuspended == stSuspend) = false by decide, show (stSuspended == stShort) = false by decide, Bool.false_and, Bool.or_false, Bool.not_eq_true'] at h
  exact h.1.1

/-- While `STATE` is `Suspended` no driver is engaged (R211 (b)). -/
theorem quietView_of_suspended {w : ArbView} (h : arbViewInv w = true) (hv : w.value = stSuspended) : quietView w = true := by
  rw [arbViewInv_iff] at h
  obtain ⟨h0, h1, h2, h3, h4, h5⟩ := h
  rw [hv] at h2 h3 h4
  unfold quietView
  rw [driverInv_suspended h2, driverInv_suspended h3, driverInv_suspended h4]; rfl

/-- While `STATE` holds an external mode no driver is engaged. -/
theorem quietView_of_ext {w : ArbView} {m : Mode} (h : arbViewInv w = true) (hv : w.value = modeValue m) (hm : driverOf m = .ext) :
    quietView w = true := by
  obtain ⟨v, ⟨i1, r1, m1⟩, ⟨i2, r2, m2⟩, ⟨i3, r3, m3⟩, lv⟩ := w
  subst hv
  have e1 : (modeValue m == stSuspend) = false := by simp [(modeValue_ne_others m).2.1]
  have e2 : (modeValue m == stShort) = false := by simp [(modeValue_ne_others m).2.2]
  simp [arbViewInv, driverInv, engagedState, quietView, e1, e2, hm] at h ⊢
  tauto

/-- With no driver engaged `Suspended` may be written (R207). -/
theorem arbViewInv_suspended_of_quiet {w : ArbView} (hq : quietView w = true) (hl : w.dccLeaves = false) : arbViewInv { w with value := stSuspended } = true := by
  obtain ⟨v, ⟨i1, r1, m1⟩, ⟨i2, r2, m2⟩, ⟨i3, r3, m3⟩, lv⟩ := w
  simp [quietView, DriverView.engaged] at hq
  obtain ⟨⟨⟨rfl, rfl⟩, ⟨rfl, rfl⟩⟩, ⟨rfl, rfl⟩⟩ := hq
  simp at hl; simp [arbViewInv, driverInv, engagedState, DriverView.engaged, leaveInv, hl]

/-- A mode entry, as arbitration sees it. -/
def resumeView (d : Driver) (w : ArbView) (v : BitVec 16) : ArbView :=
  match d with
  | .dcc => { w with value := v, dcc := { w.dcc with resume := true } }
  | .decup => { w with value := v, decup := { w.decup with resume := true } }
  | .mdu => { w with value := v, mdu := { w.mdu with resume := true } }
  | .ext => { w with value := v }

/-- A mode entry is `resumeView` (R201 (d), R209). -/
theorem arbView_enterMode (m : Mode) (s : State) : arbView (enterMode m s) = resumeView (driverOf m) (arbView s) (modeValue m) := by
  unfold enterMode resumeView
  cases driverOf m <;> rfl

/-- With no driver engaged DCCDRV does not leave. -/
theorem dccLeaves_of_quiet {w : ArbView} (h : arbViewInv w = true) (hq : quietView w = true) : w.dccLeaves = false := by
  obtain ⟨v, ⟨i1, r1, m1⟩, ⟨i2, r2, m2⟩, ⟨i3, r3, m3⟩, lv⟩ := w
  simp [quietView, DriverView.engaged] at hq
  obtain ⟨⟨⟨rfl, rfl⟩, ⟨rfl, rfl⟩⟩, ⟨rfl, rfl⟩⟩ := hq
  simp [arbViewInv, leaveInv] at h
  exact h.1.1.1.1.1.1.1

/-- A mode entry with no driver engaged keeps the invariant (R201, R205). -/
theorem arbViewInv_resumeView {w : ArbView} (m : Mode) (hq : quietView w = true) (hl : w.dccLeaves = false) : arbViewInv (resumeView (driverOf m) w (modeValue m)) = true := by
  obtain ⟨v, ⟨i1, r1, m1⟩, ⟨i2, r2, m2⟩, ⟨i3, r3, m3⟩, lv⟩ := w
  simp [quietView, DriverView.engaged] at hq
  obtain ⟨⟨⟨rfl, rfl⟩, ⟨rfl, rfl⟩⟩, ⟨rfl, rfl⟩⟩ := hq
  unfold resumeView
  simp at hl
  cases hd : driverOf m <;> simp [arbViewInv, driverInv, engagedState, DriverView.engaged, hd, leaveInv, hl]

/-- DCCDRV ends in `Suspended` or `ShortCircuit` (R208, R213). -/
theorem arbViewInv_finish_dcc {w : ArbView} (h : arbViewInv w = true) (he : w.dcc.engaged = true) (mo : Option Mode) (v : BitVec 16)
    (hv : v = stSuspended ∨ v = stShort) :
    arbViewInv { w with value := v, dcc := { idle := true, resume := false, mode := mo }, dccLeaves := false } = true := by
  obtain ⟨v0, ⟨i1, r1, m1⟩, ⟨i2, r2, m2⟩, ⟨i3, r3, m3⟩, lv⟩ := w
  rcases hv with rfl | rfl <;> cases i2 <;> cases r2 <;> cases i3 <;> cases r3 <;>
  simp_all [arbViewInv, driverInv, engagedState, DriverView.engaged, leaveInv]

/-- DECUPDRV ends so too. -/
theorem arbViewInv_finish_decup {w : ArbView} (h : arbViewInv w = true) (he : w.decup.engaged = true) (mo : Option Mode) (v : BitVec 16)
    (hv : v = stSuspended ∨ v = stShort) :
    arbViewInv { w with value := v, decup := { idle := true, resume := false, mode := mo } } = true := by
  obtain ⟨v0, ⟨i1, r1, m1⟩, ⟨i2, r2, m2⟩, ⟨i3, r3, m3⟩, lv⟩ := w
  rcases hv with rfl | rfl <;> cases i1 <;> cases r1 <;> cases i3 <;> cases r3 <;>
  simp_all [arbViewInv, driverInv, engagedState, DriverView.engaged, leaveInv]

/-- MDUDRV ends so too. -/
theorem arbViewInv_finish_mdu {w : ArbView} (h : arbViewInv w = true) (he : w.mdu.engaged = true) (mo : Option Mode) (v : BitVec 16)
    (hv : v = stSuspended ∨ v = stShort) :
    arbViewInv { w with value := v, mdu := { idle := true, resume := false, mode := mo } } = true := by
  obtain ⟨v0, ⟨i1, r1, m1⟩, ⟨i2, r2, m2⟩, ⟨i3, r3, m3⟩, lv⟩ := w
  rcases hv with rfl | rfl <;> cases i1 <;> cases r1 <;> cases i2 <;> cases r2 <;>
  simp_all [arbViewInv, driverInv, engagedState, DriverView.engaged, leaveInv]

/-- DCCDRV starts in its mode (R213). -/
theorem arbViewInv_start_dcc {w : ArbView} (h : arbViewInv w = true) (he : w.dcc.resume = true) (m : Mode)
    (hv : modeOfState w.value = some m) (hm : driverOf m = .dcc) :
    arbViewInv { w with dcc := { idle := false, resume := false, mode := some m }, dccLeaves := false } = true := by
  obtain ⟨v0, ⟨i1, r1, m1⟩, ⟨i2, r2, m2⟩, ⟨i3, r3, m3⟩, lv⟩ := w
  have := eq_modeValue_of_modeOfState hv
  subst this
  simp_all [arbViewInv, driverInv, engagedState, DriverView.engaged, modeOfState_modeValue, leaveInv]

/-- DECUPDRV starts in its mode (R213). -/
theorem arbViewInv_start_decup {w : ArbView} (h : arbViewInv w = true) (he : w.decup.resume = true) (m : Mode)
    (hv : modeOfState w.value = some m) (hm : driverOf m = .decup) :
    arbViewInv { w with decup := { idle := false, resume := false, mode := some m } } = true := by
  obtain ⟨v0, ⟨i1, r1, m1⟩, ⟨i2, r2, m2⟩, ⟨i3, r3, m3⟩, lv⟩ := w
  have := eq_modeValue_of_modeOfState hv
  subst this
  simp_all [arbViewInv, driverInv, engagedState, DriverView.engaged, modeOfState_modeValue, leaveInv]

/-- MDUDRV starts in its mode (R213). -/
theorem arbViewInv_start_mdu {w : ArbView} (h : arbViewInv w = true) (he : w.mdu.resume = true) (m : Mode)
    (hv : modeOfState w.value = some m) (hm : driverOf m = .mdu) :
    arbViewInv { w with mdu := { idle := false, resume := false, mode := some m } } = true := by
  obtain ⟨v0, ⟨i1, r1, m1⟩, ⟨i2, r2, m2⟩, ⟨i3, r3, m3⟩, lv⟩ := w
  have := eq_modeValue_of_modeOfState hv
  subst this
  simp_all [arbViewInv, driverInv, engagedState, DriverView.engaged, modeOfState_modeValue, leaveInv]
end Sys2Proof.Machine
end

