-- ==== Sys2Proof/Laws/Config.lean ====
section
/-! SUPPORT. The parameters of the block meet every constraint of the spec, whatever the open values are (log 13). -/

namespace Sys2Proof

/-- A data byte is the byte of its value (R150). -/
theorem bidiDefaultDecode_data : ∀ b n, bidiDefaultDecode b = .data n → b = bidiDefaultEncode n := by
  have h : ∀ b : Byte, (match bidiDefaultDecode b with | .data n => b == bidiDefaultEncode n | _ => true) = true := by decide
  intro b n hb
  simpa [hb] using h b

@[simp] theorem bidiDefaultDecode_encode : ∀ n, bidiDefaultDecode (bidiDefaultEncode n) = .data n := by decide

theorem bidiDefaultEncode_mem : ∀ n, bidiDefaultEncode n ∈ bidiDataBytes := by decide

/-- A byte that is no data byte of R150 carries no data. -/
theorem bidiDefaultDecode_special (b : Byte) (h : b ∉ bidiDataBytes) (n : BitVec 6) : bidiDefaultDecode b ≠ .data n := by
  intro hb
  exact h (bidiDefaultDecode_data b n hb ▸ bidiDefaultEncode_mem n)

/-- `BIDI_DECODE` and its inverse agree on every data value. -/
@[simp] theorem bidiDecode_encode (n : BitVec 6) : Config.bidiDecode (Config.bidiEncode n) = .data n := by
  simp [Config.bidiDecode, Config.bidiEncode]

/-- The byte of a data value is the only one that carries it. -/
theorem bidiDecode_data {b : Byte} {n : BitVec 6} (h : Config.bidiDecode b = .data n) : b = Config.bidiEncode n := by
  cases hb : bidiDefaultDecode b <;> simp [Config.bidiDecode, hb] at h
  subst h
  simpa [Config.bidiEncode] using bidiDefaultDecode_data b _ hb

/-- The special bytes of `BIDI_DECODE` are those of R150. -/
theorem bidiDecode_special {b : Byte} (h : b ∉ bidiDataBytes) : Config.bidiDecode b = bidiDefaultDecode b := by
  cases hb : bidiDefaultDecode b <;> simp [Config.bidiDecode, hb]
  exact absurd hb (bidiDefaultDecode_special b h _)

/-- The default parameter set is one that the spec does not refuse (R6, R155, R230, R364, R408, R409, R440, the OPEN table). -/
theorem params_legal : Config.params.Legal where
  priorityBits := by simp only [Config.params]; omega
  frontCap := by simp only [Config.params]; omega
  backCap := by simp only [Config.params]; omega
  feedbackCap := by simp only [Config.params]; omega
  cvDequeCap := by simp only [Config.params]; omega
  locoMax := by simp only [Config.params]; omega
  decupInCap := by simp only [Config.params]; omega
  mduInCap := by simp only [Config.params]; omega
  replyCap := by simp only [Config.params]; omega
  decupMaxPacket := by simp only [Config.params]; omega
  mduMaxPacket := by simp only [Config.params]; omega
  highFunctions := by simp only [Config.params]; omega
  servicePreamble := by simp only [Config.params]; omega
  sessionTimeoutDecup := by simp only [Config.params]; omega
  sessionTimeoutMdu := by simp only [Config.params]; omega
  pomRepeat := by simp only [Config.params]; omega
  cutout := by simp only [Config.params]; omega
  uartFifoSize := by simp only [Config.params]; omega
  workaround := by
    intro m pkt k raw
    simp only [Config.params, Config.workaround]
    split <;> simp
  idUpdate := by
    intro m pkt k code h
    simp only [Config.params, Config.idUpdate, Bool.and_eq_true, decide_eq_true_eq] at h
    exact h.1
  decupSymbols := by intro pkt _; simp [Config.params, Config.decupSymbols]
  mduSymbols := by intro pkt a b rt _; simp [Config.params, Config.mduSymbols]
  expectedCounts := by intro pkt a b rt; simp only [Config.params, Config.mduExpectedCounts]; omega
  countsOfSymbols := by
    intro pkt a b rt pkt' a' b' rt' h
    simp only [Config.params] at h
    simp only [Config.params, Config.mduExpectedCounts, h]
  bidiData := fun n => ⟨Config.bidiEncode n, bidiDefaultEncode_mem _, bidiDecode_encode n, fun _ h => bidiDecode_data h⟩
  bidiSpecial := fun _ h => bidiDecode_special h
  nvGet := by
    intro n a r h
    simp only [Config.params, Config.nvGet] at h
    split at h
    · split at h
      · simp only [Option.some.injEq] at h; subst h; assumption
      · cases h
    · cases h

/-- `MAXP` is at least `MINP` (R6). -/
theorem minPriority_le_maxPriority : minPriority ≤ Config.params.maxPriority := by
  have h := params_legal.priorityBits.1
  have : 2 ^ 1 ≤ 2 ^ Config.params.priorityBits := Nat.pow_le_pow_right (by omega) h
  simp only [minPriority, Params.maxPriority]
  omega

end Sys2Proof
end

