-- ==== Sys2Proof/Laws/Locos.lean ====
section
/-! SUPPORT. The loco table keeps its canonical form under every operation (R23). -/

namespace Sys2Proof.Machine

/-- The entries of a table after a write are the one written and older ones. -/
theorem mem_locoPut {a : Addr} {l : Loco} {e : Addr × Loco} :
    ∀ {t : List (Addr × Loco)}, e ∈ locoPut a l t → e = (a, l) ∨ e ∈ t := by
  intro t
  induction t with
  | nil => intro h; simpa [locoPut] using h
  | cons x t ih =>
    obtain ⟨b, r⟩ := x
    intro h
    simp only [locoPut] at h
    split at h
    · rcases List.mem_cons.mp h with h | h
      · exact .inl h
      · exact .inr (List.mem_cons_of_mem _ h)
    · split at h
      · exact (List.mem_cons.mp h).imp id id
      · rcases List.mem_cons.mp h with h | h
        · exact .inr (h ▸ List.mem_cons_self)
        · exact (ih h).imp id (List.mem_cons_of_mem _)

/-- Writing a record keeps the keys strictly rising. -/
theorem locoPut_wf (a : Addr) (l : Loco) : ∀ {t : List (Addr × Loco)}, locosWf t → locosWf (locoPut a l t) := by
  intro t
  induction t with
  | nil => intro _; simp [locosWf, locoPut]
  | cons x t ih =>
    obtain ⟨b, r⟩ := x
    intro h
    simp only [locosWf, List.pairwise_cons] at h ih
    simp only [locoPut]
    split
    · rename_i hab
      subst hab
      simp only [locosWf, List.pairwise_cons]
      exact h
    · rename_i hab
      split
      · rename_i hlt
        simp only [locosWf, List.pairwise_cons]
        refine ⟨fun e he => ?_, h⟩
        rcases List.mem_cons.mp he with rfl | he
        · exact hlt
        · exact Nat.lt_trans hlt (h.1 e he)
      · rename_i hlt
        simp only [locosWf, List.pairwise_cons]
        refine ⟨fun e he => ?_, ih h.2⟩
        rcases mem_locoPut he with rfl | he
        · have : a.toNat ≠ b.toNat := fun hh => hab (BitVec.eq_of_toNat_eq hh)
          show b.toNat < a.toNat
          omega
        · exact h.1 e he

/-- Removing a record keeps the keys strictly rising. -/
theorem locoErase_wf (a : Addr) {t : List (Addr × Loco)} (h : locosWf t) : locosWf (locoErase a t) :=
  List.Pairwise.filter _ h

/-- Changing records but no key keeps the keys strictly rising. -/
theorem locoMap_wf (f : Loco → Loco) {t : List (Addr × Loco)} (h : locosWf t) :
    locosWf (t.map fun e => (e.1, f e.2)) :=
  List.Pairwise.map _ (fun _ _ hab => hab) h

/-- A write makes the table longer by at most one entry, and by none where the address has a record. -/
theorem length_locoPut (a : Addr) (l : Loco) (t : List (Addr × Loco)) (h : locosWf t) :
    (locoPut a l t).length = if (locoGet a t).isSome then t.length else t.length + 1 := by
  induction t with
  | nil => simp [locoPut, locoGet]
  | cons x t ih =>
    obtain ⟨b, r⟩ := x
    simp only [locosWf, List.pairwise_cons] at h ih
    simp only [locoPut, locoGet]
    split
    · simp
    · rename_i hab
      split
      · rename_i hlt
        have hn : locoGet a t = none := by
          have : ∀ u : List (Addr × Loco), (∀ e ∈ u, b.toNat < e.1.toNat) → locoGet a u = none := by
            intro u
            induction u with
            | nil => intro _; rfl
            | cons y u ihu =>
              obtain ⟨c, q⟩ := y
              intro hu
              have hc : a ≠ c := by
                rintro rfl
                have := hu (a, q) List.mem_cons_self
                simp at this; omega
              simp only [locoGet, if_neg hc]
              exact ihu fun e he => hu e (List.mem_cons_of_mem _ he)
          exact this t h.1
        simp [hn]
      · simp only [List.length_cons, ih h.2]
        split <;> rfl

/-- Writing the record at an address leaves the address after it (R258 (d)). -/
theorem locoAfter_locoPut (a : Addr) (l : Loco) (t : List (Addr × Loco)) : locoAfter a (locoPut a l t) = locoAfter a t := by
  induction t with
  | nil => simp [locoAfter, locoPut]
  | cons e t ih =>
    obtain ⟨b, r⟩ := e
    simp only [locoPut]
    split
    · rename_i h; subst h; simp [locoAfter]
    · split
      · simp [locoAfter]
      · simp only [locoAfter, List.find?_cons] at ih ⊢
        split
        · rfl
        · exact ih

/-- All that the advance of the loco pass does (R258). -/
theorem advanceLoco_eq (a : Addr) (s : State) : advanceLoco a s = { s with sched := schedPast a s.locos s.sched } := by
  unfold advanceLoco schedPast
  cases locoAfter a s.locos <;> rfl

/-- The table after reset is canonical. -/
theorem reset_locosWf : locosWf State.reset.locos := List.Pairwise.nil

end Sys2Proof.Machine
end

