-- ==== Sys2Proof/Laws/PerInstr.lean ====
section
/-! SUPPORT. A statement about the encoding of every row of the opcode table, proved row by row. -/

namespace Sys2Proof.Laws.EncodedShape

open Sys2Proof

/-- What the formats of the spec say of the words of one instruction: a command word is followed by as many payload words as it
counts (R115), a packet has 3 to 6 bytes whose XOR is 0 (R130, R132), a datagram has 2 or 3 symbols (R151, R152), a response has a
listed status (R116), and an event has a second word exactly where it is `PERSIST` (R117). -/
def Shape : Code → Prop
  | .command ws => ∃ w rest, ws = w :: rest ∧ rest.length = payloadCount w
  | .packet _ bs => 3 ≤ bs.length ∧ bs.length ≤ 6 ∧ xorAll bs = 0
  | .datagram syms => syms.length = 2 ∨ syms.length = 3
  | .response w => (w.extractLsb' 56 8).toNat ≤ 7
  | .event ws => ws.length = if ws.head?.map (fun w => w.extractLsb' 56 8) = some 9#8 then 2 else 1

/-- The words of a well-formed instruction have the shape of their format. -/
def Statement (i : Instr) : Prop :=
  WellFormed i = true → Shape (encode i)

/-! ### Support -/

theorem toWord_op (f : CmdFields) : f.toWord.extractLsb' 56 8 = f.op := by
  apply BitVec.eq_of_getLsbD_eq
  intro i hi
  simp only [CmdFields.toWord, BitVec.getLsbD_extractLsb', BitVec.getLsbD_cast, BitVec.getLsbD_append, hi, decide_true,
    Bool.true_and]
  repeat' (first | rw [if_pos (by omega)] | rw [if_neg (by omega)])
  congr 1
  omega

theorem toWord_len (f : CmdFields) : f.toWord.extractLsb' 8 8 = f.len := by
  apply BitVec.eq_of_getLsbD_eq
  intro i hi
  simp only [CmdFields.toWord, BitVec.getLsbD_extractLsb', BitVec.getLsbD_cast, BitVec.getLsbD_append, hi, decide_true,
    Bool.true_and]
  repeat' (first | rw [if_pos (by omega)] | rw [if_neg (by omega)])
  congr 1
  omega

theorem length_packWords : ∀ (k : Nat) (bs : List Byte), (packWords k bs).length = k
  | 0, _ => rfl
  | k + 1, bs => by simp [packWords, length_packWords k]

theorem payloadCount_toWord (f : CmdFields) :
    payloadCount f.toWord =
      match Opcode.ofByte f.op with
      | some o => if o.hasPayload then (f.len.toNat + 7) / 8 else 0
      | none => 0 := by
  simp only [payloadCount, CmdFields.ofWord, toWord_op, toWord_len]
  all_goals rfl

/-- A command without payload. -/
theorem shape_short {i : Instr} {f : CmdFields} {o : Opcode} (he : encode i = .command (f.toWord :: packPayload []))
    (ho : f.op = o.byte) (hp : o.hasPayload = false) : Shape (encode i) := by
  rw [he]
  refine ⟨_, _, rfl, ?_⟩
  have : Opcode.ofByte o.byte = some o := by cases o <;> decide
  rw [payloadCount_toWord, ho, this]
  simp [hp, packPayload, length_packWords]

/-- A command with payload. -/
theorem shape_long {i : Instr} {f : CmdFields} {o : Opcode} {p : List Byte}
    (he : encode i = .command (f.toWord :: packPayload p)) (ho : f.op = o.byte) (hp : o.hasPayload = true)
    (hl : f.len = BitVec.ofNat 8 p.length) (h : payloadOk p = true) : Shape (encode i) := by
  rw [he]
  refine ⟨_, _, rfl, ?_⟩
  have : Opcode.ofByte o.byte = some o := by cases o <;> decide
  have hn : p.length ≤ 255 := by simpa [payloadOk] using h
  have hm : p.length % 256 = p.length := by omega
  rw [payloadCount_toWord, ho, this]
  simp [hp, hl, packPayload, length_packWords, hm]

/-- A packet row. -/
theorem shape_packet {i : Instr} {body : List Byte} {x : Byte} (hb : packetBody i = some body)
    (he : encode i = .packet (packetCtx i) (packetBytes i)) (hx : packetX i = x) (h2 : 2 ≤ body.length) (h5 : body.length ≤ 5)
    (h : (x == xorAll ((packetBody i).getD [])) = true) : Shape (encode i) := by
  have hy : x = xorAll body := by simpa [hb] using h
  have hp : packetBytes i = body ++ [xorAll body] := by rw [packetBytes, hb, hx, ← hy]
  rw [he, hp]
  refine ⟨?_, ?_, ?_⟩
  · simp only [List.length_append, List.length_singleton]; omega
  · simp only [List.length_append, List.length_singleton]; omega
  · simp [xorAll]

theorem length_addrBytes (a : Addr) : 1 ≤ (addrBytes a).length ∧ (addrBytes a).length ≤ 2 := by
  unfold addrBytes
  split <;> simp

theorem left_of_and {a b : Bool} (h : (a && b) = true) : a = true := by
  rw [Bool.and_eq_true] at h
  exact h.1

/-- A packet row with an address and one to three bytes. -/
theorem shape_addressed {i : Instr} {a : Addr} {tail : List Byte} {x : Byte}
    (hb : packetBody i = some (addrBytes a ++ tail)) (he : encode i = .packet (packetCtx i) (packetBytes i)) (hx : packetX i = x)
    (h1 : Nat.ble 1 tail.length = true) (h3 : Nat.ble tail.length 3 = true) (h : addressedOk a i x = true) :
    Shape (encode i) := by
  rw [addressedOk, Bool.and_eq_true] at h
  have := length_addrBytes a
  have := Nat.le_of_ble_eq_true h1
  have := Nat.le_of_ble_eq_true h3
  exact shape_packet hb he hx (by rw [List.length_append]; omega) (by rw [List.length_append]; omega) h.2

/-! ### One lemma for each row -/

theorem acquire (mode : BitVec 8) : Statement (.acquire mode) :=
  fun _ => shape_short (o := .acquire) rfl rfl rfl

theorem suspend (mode : BitVec 8) : Statement (.suspend mode) :=
  fun _ => shape_short (o := .suspend) rfl rfl rfl

theorem release (mode : BitVec 8) : Statement (.release mode) :=
  fun _ => shape_short (o := .release) rfl rfl rfl

theorem short : Statement (.short) :=
  fun _ => shape_short (o := .short) rfl rfl rfl

theorem powerOn : Statement (.powerOn) :=
  fun _ => shape_short (o := .powerOn) rfl rfl rfl

theorem locoDrive (addr : Addr) (steps : BitVec 3) (rv : Byte) : Statement (.locoDrive addr steps rv) :=
  fun _ => shape_short (o := .locoDrive) rfl rfl rfl

theorem locoFunction (addr : Addr) (fn : BitVec 5) (on : Bool) : Statement (.locoFunction addr fn on) :=
  fun _ => shape_short (o := .locoFunction) rfl rfl rfl

theorem locoMode (addr : Addr) (steps : BitVec 3) : Statement (.locoMode addr steps) :=
  fun _ => shape_short (o := .locoMode) rfl rfl rfl

theorem locoInfo (addr : Addr) : Statement (.locoInfo addr) :=
  fun _ => shape_short (o := .locoInfo) rfl rfl rfl

theorem locoRailcom (addr : Addr) : Statement (.locoRailcom addr) :=
  fun _ => shape_short (o := .locoRailcom) rfl rfl rfl

theorem locoErase (addr : Addr) : Statement (.locoErase addr) :=
  fun _ => shape_short (o := .locoErase) rfl rfl rfl

theorem locoEraseAll : Statement (.locoEraseAll) :=
  fun _ => shape_short (o := .locoEraseAll) rfl rfl rfl

theorem cvRead (cvi : Cvi) : Statement (.cvRead cvi) :=
  fun _ => shape_short (o := .cvRead) rfl rfl rfl

theorem cvWrite (cvi : Cvi) (data : Byte) : Statement (.cvWrite cvi data) :=
  fun _ => shape_short (o := .cvWrite) rfl rfl rfl

theorem cvPomRead (addr : Addr) (cvi : Cvi) : Statement (.cvPomRead addr cvi) :=
  fun _ => shape_short (o := .cvPomRead) rfl rfl rfl

theorem cvPomWrite (addr : Addr) (cvi : Cvi) (data : Byte) : Statement (.cvPomWrite addr cvi data) :=
  fun _ => shape_short (o := .cvPomWrite) rfl rfl rfl

theorem sendFront (bytes : List Byte) : Statement (.sendFront bytes) :=
  fun h => shape_long (o := .sendFront) rfl rfl rfl rfl h

theorem sendBack (bytes : List Byte) : Statement (.sendBack bytes) :=
  fun h => shape_long (o := .sendBack) rfl rfl rfl rfl h

theorem decupTx (bytes : List Byte) : Statement (.decupTx bytes) :=
  fun h => shape_long (o := .decupTx) rfl rfl rfl rfl h

theorem mduTx (bytes : List Byte) : Statement (.mduTx bytes) :=
  fun h => shape_long (o := .mduTx) rfl rfl rfl rfl h

theorem cfgWrite (index : BitVec 8) (data : Byte) : Statement (.cfgWrite index data) :=
  fun _ => shape_short (o := .cfgWrite) rfl rfl rfl

theorem cfgRead (index : BitVec 8) : Statement (.cfgRead index) :=
  fun _ => shape_short (o := .cfgRead) rfl rfl rfl

theorem dccIdle : Statement (.dccIdle) :=
  fun _ => ⟨by decide, by decide, by decide⟩

theorem dccReset : Statement (.dccReset) :=
  fun _ => ⟨by decide, by decide, by decide⟩

theorem dccSpeed14 (addr : Addr) (dir : Bool) (f0 : Bool) (speed : BitVec 4) (x : Byte) : Statement (.dccSpeed14 addr dir f0 speed x) :=
  fun h => shape_addressed rfl rfl rfl rfl rfl h

theorem dccSpeed28 (addr : Addr) (dir : Bool) (code : BitVec 5) (x : Byte) : Statement (.dccSpeed28 addr dir code x) :=
  fun h => shape_addressed rfl rfl rfl rfl rfl (left_of_and h)

theorem dccSpeed128 (addr : Addr) (dir : Bool) (speed : BitVec 7) (x : Byte) : Statement (.dccSpeed128 addr dir speed x) :=
  fun h => shape_addressed rfl rfl rfl rfl rfl h

theorem dccFg1 (addr : Addr) (f : BitVec 5) (x : Byte) : Statement (.dccFg1 addr f x) :=
  fun h => shape_addressed rfl rfl rfl rfl rfl h

theorem dccFg2a (addr : Addr) (f : BitVec 4) (x : Byte) : Statement (.dccFg2a addr f x) :=
  fun h => shape_addressed rfl rfl rfl rfl rfl h

theorem dccFg2b (addr : Addr) (f : BitVec 4) (x : Byte) : Statement (.dccFg2b addr f x) :=
  fun h => shape_addressed rfl rfl rfl rfl rfl h

theorem dccFg3 (addr : Addr) (f : BitVec 8) (x : Byte) : Statement (.dccFg3 addr f x) :=
  fun h => shape_addressed rfl rfl rfl rfl rfl h

theorem dccFg4 (addr : Addr) (f : BitVec 8) (x : Byte) : Statement (.dccFg4 addr f x) :=
  fun h => shape_addressed rfl rfl rfl rfl rfl h

theorem dccFg5 (addr : Addr) (f : BitVec 3) (x : Byte) : Statement (.dccFg5 addr f x) :=
  fun h => shape_addressed rfl rfl rfl rfl rfl h

theorem dccPomRead (addr : Addr) (cvi : Cvi) (x : Byte) : Statement (.dccPomRead addr cvi x) :=
  fun h => shape_addressed rfl rfl rfl rfl rfl h

theorem dccPomWrite (addr : Addr) (cvi : Cvi) (data : Byte) (x : Byte) : Statement (.dccPomWrite addr cvi data x) :=
  fun h => shape_addressed rfl rfl rfl rfl rfl h

theorem dccSvcVerifyByte (cvi : Cvi) (data : Byte) (x : Byte) : Statement (.dccSvcVerifyByte cvi data x) :=
  fun h => shape_packet rfl rfl rfl (Nat.le_of_ble_eq_true rfl) (Nat.le_of_ble_eq_true rfl) h

theorem dccSvcWriteByte (cvi : Cvi) (data : Byte) (x : Byte) : Statement (.dccSvcWriteByte cvi data x) :=
  fun h => shape_packet rfl rfl rfl (Nat.le_of_ble_eq_true rfl) (Nat.le_of_ble_eq_true rfl) h

theorem dccSvcVerifyBit (cvi : Cvi) (bit : Bool) (pos : BitVec 3) (x : Byte) : Statement (.dccSvcVerifyBit cvi bit pos x) :=
  fun h => shape_packet rfl rfl rfl (Nat.le_of_ble_eq_true rfl) (Nat.le_of_ble_eq_true rfl) h

theorem bidiAppPom (value : Byte) : Statement (.bidiAppPom value) :=
  fun _ => .inl rfl

theorem bidiAppDyn (dv : Byte) (subindex : BitVec 6) : Statement (.bidiAppDyn dv subindex) :=
  fun _ => .inr rfl

theorem response (status : Byte) (value : BitVec 56) : Statement (.response status value) := by
  intro h
  have he : (responseWord status value).extractLsb' 56 8 = status := by
    apply BitVec.eq_of_getLsbD_eq
    intro i hi
    simp only [responseWord, BitVec.getLsbD_extractLsb', BitVec.getLsbD_cast, BitVec.getLsbD_append, hi, decide_true,
      Bool.true_and]
    rw [if_neg (by omega)]
    congr 1
    omega
  simpa [Shape, encode, he, WellFormed] using h

theorem event (ev : Byte) (addr : Addr) (cvi : Cvi) (data : Byte) (ext : Option (BitVec 56)) : Statement (.event ev addr cvi data ext) := by
  intro h
  have he : (eventWord ev addr cvi data).extractLsb' 56 8 = ev := by
    apply BitVec.eq_of_getLsbD_eq
    intro i hi
    simp only [eventWord, BitVec.getLsbD_extractLsb', BitVec.getLsbD_cast, BitVec.getLsbD_append, hi, decide_true,
      Bool.true_and]
    repeat' (first | rw [if_pos (by omega)] | rw [if_neg (by omega)])
    congr 1
    omega
  simp only [WellFormed, eventOk, Bool.and_eq_true, decide_eq_true_eq] at h
  cases ext with
  | none =>
    have h9 : ev ≠ 9#8 := by simpa using h.2
    simp [Shape, encode, eventWords, he, h9]
  | some e =>
    have h9 : ev = 9#8 := by simpa using h.2
    rw [h9] at he
    simp [Shape, encode, eventWords, he, h9]

end Sys2Proof.Laws.EncodedShape
end

