-- ==== Sys2Proof/Laws/Step.lean ====
section
/-! SUPPORT. A step is the move at the head of the agenda, and what running a list of instructions is. -/

namespace Sys2Proof.Machine

/-- The step of a state without a fault and without a placed word, with a move on its agenda (log 1). -/
theorem step_nextIs {s : State} {m : Move} {rest : List Move} (h : NextIs s m rest) :
    step s =
      match moveStep Config.params m (took rest s) with
      | .run is t => runInstrs is t
      | .refused r => .refused r := by
  obtain ⟨h1, h2, h3⟩ := h
  simp only [step, h1, advance, h2, nextMove, h3, took]
  all_goals rfl

/-- All that a step which answers a next state did (R504 (b), log 1, log 6). -/
theorem step_eq_next {s t : State} (h : step s = .next t) :
    s.fatal = none ∧ ∃ is u, advance Config.params s = .run is u ∧ runInstrs is u = .next t := by
  unfold step at h
  split at h
  · cases h
  · rename_i hf
    split at h
    · rename_i is u ha; exact ⟨hf, is, u, ha, h⟩
    · cases h

@[simp] theorem runInstrs_nil (s : State) : runInstrs [] s = .next s := rfl

@[simp] theorem runInstrs_singleton (i : Instr) (s : State) : runInstrs [i] s = exec i s := by
  simp only [runInstrs]
  cases exec i s <;> rfl

/-- A property that every instruction keeps is kept by a list of them. -/
theorem runInstrs_inv {Inv : State → Prop} (hexec : ∀ i s t, Inv s → exec i s = .next t → Inv t) :
    ∀ is s t, Inv s → runInstrs is s = .next t → Inv t := by
  intro is
  induction is with
  | nil => intro s t hs h; cases h; exact hs
  | cons i is ih =>
    intro s t hs h
    simp only [runInstrs] at h
    split at h
    · rename_i u hu; exact ih u t (hexec i s u hs hu) h
    · cases h
    · cases h

/-- Every data byte passes the parity check (R150, R381). -/
theorem popcount_bidiEncode (n : BitVec 6) : popcount (Config.bidiEncode n) = 4 := by
  have h : ∀ m, popcount (bidiDefaultEncode m) = 4 := by decide
  exact h _

/-- A feedback entry with the bytes of data values is parsed as those values (R380 to R383). -/
theorem feedbackInstrs_encode (pkt : List Byte) (syms : List (BitVec 6)) (h0 : syms ≠ []) (h6 : syms.length ≤ 6) :
    feedbackInstrs Config.params { pkt := pkt, dg := datagramBuffer 2 (syms.map Config.bidiEncode), n1 := 0, n2 := syms.length } =
      parseSymbols syms.length (syms.map .data) := by
  have hb : channel2 { pkt := pkt, dg := datagramBuffer 2 (syms.map Config.bidiEncode), n1 := 0, n2 := syms.length } =
      syms.map Config.bidiEncode := by
    simp only [channel2, datagramBuffer]
    rw [List.drop_take, List.take_take]
    simp [h6]
  have hz : ∀ n, Config.bidiEncode n ≠ 0#8 := by
    intro n hn
    have := popcount_bidiEncode n
    rw [hn] at this
    revert this; decide
  have hd : (syms.map Config.bidiEncode).map Config.params.bidiDecode = syms.map .data := by
    simp [Config.params]
  have hn : noData (syms.map Config.bidiEncode) = false := by
    cases syms with
    | nil => exact absurd rfl h0
    | cons a t => simp [noData, hz]
  simp only [feedbackInstrs, hb, hd, hn]
  simp [parityOk, popcount_bidiEncode]

/-- A placed datagram is run by the next step: SCHED decodes its symbols and runs what they say (log 4). -/
theorem step_placeDatagram (syms : List (BitVec 6)) (s : State) (h0 : syms ≠ []) (h6 : syms.length ≤ 6) :
    step (placeCode (.datagram syms) s) =
      runInstrs (parseSymbols syms.length (syms.map .data))
        { s with
          fatal := none, outLatch := none, arbState := modeValue .dccOperations, sched := { s.sched with phase := .opsBidi } } := by
  rw [step_nextIs (m := .sched) (rest := s.agenda) ⟨rfl, rfl, rfl⟩]
  have hm : moveStep Config.params .sched (took s.agenda (placeCode (.datagram syms) s)) =
      .run (feedbackInstrs Config.params
          { pkt := s.rxPkt, dg := datagramBuffer 2 (syms.map Config.bidiEncode), n1 := 0, n2 := syms.length })
        { s with
          fatal := none, outLatch := none, arbState := modeValue .dccOperations, sched := { s.sched with phase := .opsBidi } } := rfl
  rw [hm, feedbackInstrs_encode _ _ h0 h6]

end Sys2Proof.Machine
end

