-- ==== Sys2Proof/Laws/Runs.lean ====
section
/-! SUPPORT. Runs and weak fairness (R9), and the end of a run (R630). -/

namespace Sys2Proof.Machine

/-- No state of an infinite run has a fault (R504 (b)). -/
theorem IsRun.fatal_none {σ : Nat → State} (h : IsRun σ) (n : Nat) : (σ n).fatal = none :=
  (step_eq_next (h n)).1

/-- The move on top of the agenda is the one that is taken. -/
theorem takenMove_eq {s : State} {m : Move} {rest : List Move} (h : NextIs s m rest) : takenMove s = m := by
  simp only [takenMove, nextMove, h.2.2]

/-- The state after reset is over normally, for no driver, no command and no reply is there (R600, R630). -/
theorem reset_normalEnd : NormalEnd State.reset :=
  ⟨rfl, .inl rfl, by decide, rfl, rfl, rfl, rfl, rfl, rfl, rfl⟩

/-- A whole command on the port of an idle HOST is a step that HOST has (R231). -/
theorem host_not_held {s : State} {c : Command} {more : List Word} (hf : s.fatal = none) (hp : s.host.phase = .hIdle)
    (hc : headCommand s.hostPort.cmds = some (c, more)) : ¬Held .host s := by
  intro h
  have hb := congrArg (fun t => t.host.phase) (h _ (by
    rw [step_nextIs (s := { s with agenda := [.host], outLatch := none }) ⟨hf, rfl, rfl⟩]
    simp only [moveStep, took, hostStep, hp, hostIntake, hc, runInstrs_nil]
    rfl))
  simp [hp] at hb

/-- In a fair run a command that stays on the port of an idle HOST does not wait for ever: HOST has a move (R9, R231). -/
theorem FairRun.host_moves {σ : Nat → State} (h : FairRun σ) (n : Nat)
    (hw : ∀ k, n ≤ k → (σ k).host.phase = .hIdle ∧ ∃ p, headCommand (σ k).hostPort.cmds = some p) :
    ∃ k, n ≤ k ∧ takenMove (σ k) = .host := by
  obtain ⟨k, hk, hm⟩ := h.fair .host n fun k hk => by
    obtain ⟨hp, p, hc⟩ := hw k hk
    exact ⟨.host, List.mem_singleton.mpr rfl, host_not_held (h.run.fatal_none k) hp hc⟩
  exact ⟨k, hk, List.mem_singleton.mp hm⟩

end Sys2Proof.Machine
end

