-- ==== Sys2Proof/Tests/Slice0.lean ====
section
/-! SUPPORT. The model's own tests, and for each statement of Obligations.lean that has hypotheses a state and operands that meet
them. Expected values are from spec/95_test_vectors.md (the vector is named) or computed by hand from the rule named. -/

namespace Sys2Proof.Tests

set_option Elab.async false

open Sys2Proof Sys2Proof.Machine

/-! ### WellFormed refuses (one ill-formed term for each check) -/

theorem test_wf_address_too_large : WellFormed (.dccSpeed128 10240 true 10 0x8A) = false := by decide
theorem test_wf_checksum : WellFormed (.dccSpeed128 3 true 10 0xB7) = false := by decide
theorem test_wf_service_checksum : WellFormed (.dccSvcVerifyByte 28 0 0x69) = false := by decide
theorem test_wf_speed_code : WellFormed (.dccSpeed28 3 true 1 0x73) = false := by decide
theorem test_wf_payload_too_long : WellFormed (.sendFront (List.replicate 256 0)) = false := by decide +kernel
theorem test_wf_status : WellFormed (.response 0x08 0) = false := by decide
theorem test_wf_event_code_zero : WellFormed (.event 0x00 0 0 0 none) = false := by decide
theorem test_wf_event_code_twelve : WellFormed (.event 0x0C 0 0 0 none) = false := by decide
theorem test_wf_persist_one_word : WellFormed (.event 0x09 3 0 0 none) = false := by decide
theorem test_wf_event_two_words : WellFormed (.event 0x04 3 0 0 (some 0)) = false := by decide

/-! ### Decoding, from words written out by R113 to R117 and R130 to R152 -/

/-- Vectors 3.1, 3.10, 3.26, 3.15, 3.19. -/
theorem test_decode_arbitration :
    decode (.command [0x0100000000010000]) = .ok (.acquire 0x01) ∧
    decode (.command [0x0200000000FF0000]) = .ok (.suspend 0xFF) ∧
    decode (.command [0x0300000000070000]) = .ok (.release 0x07) ∧
    decode (.command [0x0400000000000000]) = .ok .short ∧
    decode (.command [0x0500000000000000]) = .ok .powerOn := by decide

/-- Vectors 4.14, 4.5, 4.7, 4.8, 4.9, 4.10, 4.12. -/
theorem test_decode_loco :
    decode (.command [0x109FFC0082040000]) = .ok (.locoDrive 10239 4 0x82) ∧
    decode (.command [0x11000C00011F0000]) = .ok (.locoFunction 3 31 true) ∧
    decode (.command [0x12000C0000020000]) = .ok (.locoMode 3 2) ∧
    decode (.command [0x13000C0000000000]) = .ok (.locoInfo 3) ∧
    decode (.command [0x14000C0000000000]) = .ok (.locoRailcom 3) ∧
    decode (.command [0x1500140000000000]) = .ok (.locoErase 5) ∧
    decode (.command [0x1600000000000000]) = .ok .locoEraseAll := by decide

/-- Vectors 4.15, 4.16, 4.19, 4.18. -/
theorem test_decode_cv :
    decode (.command [0x200003FF00000000]) = .ok (.cvRead 1023) ∧
    decode (.command [0x2100000205000000]) = .ok (.cvWrite 2 5) ∧
    decode (.command [0x220203FF00000000]) = .ok (.cvPomRead 128 1023) ∧
    decode (.command [0x2300100205000000]) = .ok (.cvPomWrite 4 2 5) := by decide

/-- Vector 4.20; nine bytes take two payload words (R115); vector 4.21's word with `LEN` 1 and 8. -/
theorem test_decode_payload :
    decode (.command [0x3000000000000300, 0xFF00FF0000000000]) = .ok (.sendFront [0xFF, 0x00, 0xFF]) ∧
    decode (.command [0x3100000000000900, 0x0102030405060708, 0x0900000000000000]) =
      .ok (.sendBack [1, 2, 3, 4, 5, 6, 7, 8, 9]) ∧
    decode (.command [0x3800000000000100, 0xAB00000000000000]) = .ok (.decupTx [0xAB]) ∧
    decode (.command [0x3900000000000800, 0x0102030405060708]) = .ok (.mduTx [1, 2, 3, 4, 5, 6, 7, 8]) := by decide

/-- The settings set S_OPS of section 0.2, and the last register of R118. -/
theorem test_decode_csr :
    decode (.command [0x4000000064020000]) = .ok (.cfgWrite 2 100) ∧
    decode (.command [0x4100000000270000]) = .ok (.cfgRead 0x27) := by decide

/-- R122: an opcode that is not listed, a reserved bit, an unused field, and a missing payload word are no instruction. -/
theorem test_decode_refuses :
    decode (.command [0x0600000000000000]) = .error .illegal ∧
    decode (.command [0x0100000000010001]) = .error .badOperand ∧
    decode (.command [0x13000C0000010000]) = .error .badOperand ∧
    decode (.command [0x3000000000000300]) = .error .partialCommand ∧
    decode (.packet {} [0x80, 0x00, 0x80]) = .error .notATablePacket ∧
    decode (.datagram [0x10, 0x00]) = .error .notADatagram := by decide

/-- R133 and section 5.1 (speed packets). -/
theorem test_decode_speed_packets :
    decode (.packet {} [0xFF, 0x00, 0xFF]) = .ok .dccIdle ∧
    decode (.packet {} [0x00, 0x00, 0x00]) = .ok .dccReset ∧
    decode (.packet { steps14 := true } [0x03, 0x7F, 0x7C]) = .ok (.dccSpeed14 3 true true 15 0x7C) ∧
    decode (.packet {} [0x03, 0x7F, 0x7C]) = .ok (.dccSpeed28 3 true 31 0x7C) ∧
    decode (.packet {} [0x03, 0x61, 0x62]) = .ok (.dccSpeed28 3 true 2 0x62) ∧
    decode (.packet {} [0xC0, 0x80, 0x3F, 0x8A, 0xF5]) = .ok (.dccSpeed128 128 true 10 0xF5) ∧
    decode (.packet {} [0xE7, 0xFF, 0x3F, 0x82, 0xA5]) = .ok (.dccSpeed128 10239 true 2 0xA5) := by decide

/-- Section 5.1 (function groups). -/
theorem test_decode_function_packets :
    decode (.packet {} [0x03, 0x90, 0x93]) = .ok (.dccFg1 3 0b00001 0x93) ∧
    decode (.packet {} [0x03, 0x88, 0x8B]) = .ok (.dccFg1 3 0b10000 0x8B) ∧
    decode (.packet {} [0x03, 0xB1, 0xB2]) = .ok (.dccFg2a 3 1 0xB2) ∧
    decode (.packet {} [0x03, 0xA8, 0xAB]) = .ok (.dccFg2b 3 8 0xAB) ∧
    decode (.packet {} [0x03, 0xDE, 0x01, 0xDC]) = .ok (.dccFg3 3 1 0xDC) ∧
    decode (.packet {} [0x03, 0xDF, 0x80, 0x5C]) = .ok (.dccFg4 3 0x80 0x5C) ∧
    decode (.packet {} [0x03, 0xD8, 0x04, 0xDF]) = .ok (.dccFg5 3 4 0xDF) := by decide

/-- Section 5.1 (POM and service packets). -/
theorem test_decode_cv_packets :
    decode (.packet {} [0x03, 0xE4, 0x02, 0x00, 0xE5]) = .ok (.dccPomRead 3 2 0xE5) ∧
    decode (.packet {} [0xC0, 0x80, 0xE7, 0xFF, 0x00, 0x58]) = .ok (.dccPomRead 128 1023 0x58) ∧
    decode (.packet {} [0x03, 0xEC, 0x02, 0x05, 0xE8]) = .ok (.dccPomWrite 3 2 5 0xE8) ∧
    decode (.packet { service := true } [0x77, 0xFF, 0x00, 0x88]) = .ok (.dccSvcVerifyByte 1023 0 0x88) ∧
    decode (.packet { service := true } [0x7C, 0x1C, 0x06, 0x66]) = .ok (.dccSvcWriteByte 28 6 0x66) ∧
    decode (.packet { service := true } [0x78, 0x00, 0xE7, 0x9F]) = .ok (.dccSvcVerifyBit 0 false 7 0x9F) ∧
    decode (.packet { service := true } [0x78, 0x1C, 0xE8, 0x8C]) = .ok (.dccSvcVerifyBit 28 true 0 0x8C) := by decide

/-- Vectors 6.3.3 and 6.3.7, 6.3.8, 6.3.9. -/
theorem test_decode_datagrams :
    decode (.datagram [0, 42]) = .ok (.bidiAppPom 42) ∧
    decode (.datagram [29, 36, 0]) = .ok (.bidiAppDyn 100 0) ∧
    decode (.datagram [28, 44, 1]) = .ok (.bidiAppDyn 44 1) ∧
    decode (.datagram [31, 8, 7]) = .ok (.bidiAppDyn 200 7) := by decide

/-- Vectors 4.9, 6.3.3 and 4.1. -/
theorem test_decode_output_words :
    decode (.response 0x00012CC807000000) = .ok (.response 0x00 0x012CC807000000) ∧
    decode (.event [0x01000C022A000000]) = .ok (.event 0x01 3 2 0x2A none) ∧
    decode (.event [0x09000C0000000000, 0x008A800000000020]) = .ok (.event 0x09 3 0 0 (some 0x8A800000000020)) := by decide

/-! ### Meanings, one step on a small state -/

/-- Parameter set A of section 0.1. Its `decup_id_update` keeps the flag in `DECUPZsu`; in `DECUPZpp`, where R409 allows no 1 and the flag
is 0 on every run, it answers 0 (log 13). -/
def setA : Params where
  priorityBits := 3
  frontCap := 8
  backCap := 16
  feedbackCap := 4
  cvDequeCap := 4
  locoMax := 8
  decupInCap := 4
  mduInCap := 4
  replyCap := 2
  decupMaxPacket := 64
  mduMaxPacket := 64
  highFunctions := 0
  servicePreamble := 20
  pomRepeat := 1
  bitVerifyPol := true
  tTcs := 30
  tTs2 := 190
  tTce := 460
  offsetEndbit := 2
  uartFifoSize := 16
  sessionTimeoutDecup := 1000000
  sessionTimeoutMdu := 1000000
  mduRates := fun _ => ⟨0, 0, 0⟩
  mduDefaultRate := 0
  mduFallbackRate := 1
  decupIsData := fun _ p => 2 ≤ p.length
  decupWorkaround := fun _ _ _ r => r
  decupIdUpdate := fun m _ k _ => decide (m = .decupZsu) && k
  decupSymbols := fun p => p.map fun _ => ⟨true, 50, false, 50⟩
  mduSymbols := fun p _ _ _ => p.map fun _ => ⟨true, 500, false, 500⟩
  mduExpectedCounts := fun _ _ _ _ => (1000, 2000)
  mduIsCtr := fun _ => false
  mduCtrRate := fun _ => 2
  bidiDecode := bidiDefaultDecode
  nvGet := fun _ _ => none
  freeMove := fun _ => .time
  wideCount := fun _ => 0
  wideCapture := fun _ => 0

/-- Set A is a parameter set that the spec does not refuse (R6 and the OPEN table of spec/92). -/
theorem setA_legal : setA.Legal where
  priorityBits := by decide
  frontCap := by decide
  backCap := by decide
  feedbackCap := by decide
  cvDequeCap := by decide
  locoMax := by decide
  decupInCap := by decide
  mduInCap := by decide
  replyCap := by decide
  decupMaxPacket := by decide
  mduMaxPacket := by decide
  highFunctions := by decide
  servicePreamble := by decide
  pomRepeat := by decide
  cutout := by decide
  uartFifoSize := by decide
  sessionTimeoutDecup := by decide
  sessionTimeoutMdu := by decide
  workaround := fun _ _ _ _ => .inl rfl
  idUpdate := by intro m pkt k code; cases m <;> simp [setA]
  decupSymbols := by simp [setA]
  mduSymbols := by simp [setA]
  expectedCounts := by simp [setA]
  countsOfSymbols := fun _ _ _ _ _ _ _ _ _ => rfl
  bidiData := fun n =>
    ⟨bidiDefaultEncode n, bidiDefaultEncode_mem n, bidiDefaultDecode_encode n, fun c h => bidiDefaultDecode_data c n h⟩
  bidiSpecial := fun _ _ => rfl
  nvGet := by simp [setA]

/-- The ACK positions of set A lie inside a packet of 3 bytes and not inside one of 2 (R436, log 35). -/
theorem test_setA_counts :
    setA.CountsInPacket [1, 2, 3] 0 0 ⟨0, 0, 0⟩ ∧ ¬setA.CountsInPacket [1, 2] 0 0 ⟨0, 0, 0⟩ := by
  unfold Params.CountsInPacket
  decide

/-- What is seen of a next state. -/
def after {α : Type} (o : Res) (f : State → α) : Option α :=
  match o with
  | .next s => some (f s)
  | .fault _ => none
  | .refused _ => none

/-- The state after reset with a value in `STATE`. -/
def inState (v : BitVec 16) : State :=
  { State.reset with arbState := v }

/-- A loco with 128 steps, forward, speed 10. -/
def loco : Loco :=
  { locoDefault with rvvvvvvv := 0x8A }

/-- `DCCOperations` with a loco at address 3. -/
def withLoco (l : Loco) : State :=
  { inState 0x0100 with locos := [(3, l)] }

/-- Vector 3.1. -/
theorem test_acquire :
    after (execAcquire 0x01 (inState 0x0001)) (fun s => (s.arbState, s.dcc.resume, s.hostPort.resp)) =
      some (0x0100, true, [0x0000000000000100]) := by decide

/-- Vector 3.4. -/
theorem test_acquire_loses :
    after (execAcquire 0x04 (inState 0x0100)) (fun s => (s.arbState, s.decup.resume, s.hostPort.resp)) =
      some (0x0100, false, [0x0100000000000100]) := by decide

/-- Vector 3.9. -/
theorem test_suspend :
    after (execSuspend 0x01 (inState 0x0100)) (fun s => (s.arbState, s.events, s.hostPort.resp)) =
      some (0x0002, [0x0600000000000000], [0x0000000000000002]) := by decide

/-- Vector 3.13. -/
theorem test_suspend_any_without_mode :
    after (execSuspend 0xFF (inState 0x0004)) (fun s => (s.arbState, s.events, s.hostPort.resp)) =
      some (0x0004, [], [0x0000000000000004]) := by decide

/-- Vector 3.26. -/
theorem test_release :
    after (execRelease 0x07 (inState 0x0700)) (fun s => (s.arbState, s.hostPort.resp)) =
      some (0x0001, [0x0000000000000001]) := by decide

/-- Vector 3.28. -/
theorem test_release_loses :
    after (execRelease 0x0C (inState 0x0700)) (fun s => (s.arbState, s.hostPort.resp)) =
      some (0x0700, [0x0100000000000700]) := by decide

/-- Vector 3.15. -/
theorem test_short :
    after (execShort { inState 0x0100 with issuer := .analog }) (fun s => (s.arbState, s.events, s.analogPort.resp)) =
      some (0x0004, [0x0600000000000000], [0x0000000000000004]) := by decide

/-- Vector 3.18. -/
theorem test_short_twice :
    after (execShort (inState 0x0004)) (fun s => (s.arbState, s.events)) = some (0x0004, []) := by decide

/-- Vector 3.20. -/
theorem test_powerOn :
    after (execPowerOn (inState 0x0004)) (fun s => (s.arbState, s.dcc.resume, s.hostPort.resp)) =
      some (0x0100, true, [0x0000000000000100]) := by decide

/-- Vector 3.23. -/
theorem test_powerOn_loses :
    after (execPowerOn (inState 0x0400)) (fun s => (s.arbState, s.hostPort.resp)) =
      some (0x0400, [0x0100000000000400]) := by decide

/-- Vector 4.1. -/
theorem test_locoDrive :
    after (execLocoDrive 3 4 0x8A (inState 0x0100) setA) (fun s => (s.locos, s.events, s.host.pend)) =
      some
        ([(3, loco)], [0x09000C0000000000, 0x008A800000000020, 0x04000C0000000000],
          some { target := .frontq, bytes := [0x03, 0x3F, 0x8A, 0xB6], adm := 0x0100 }) := by decide

/-- Vector 4.2. -/
theorem test_locoDrive_suspended :
    after (execLocoDrive 3 4 0x8A (inState 0x0001) setA) (fun s => (s.locos, s.host.pend, s.hostPort.resp)) =
      some ([(3, loco)], none, [0]) := by decide

/-- Vector 4.5. -/
theorem test_locoFunction :
    after (execLocoFunction 3 31 true (withLoco locoDefault) setA)
        (fun s => (s.locos.map fun e => e.2.f31_0, s.events, s.host.pend.map Pending.bytes)) =
      some
        ([0x80000000], [0x09000C0000000000, 0x0080900000000020, 0x04000C0000000000], some [0x03, 0xD8, 0x04, 0xDF]) := by
  decide

/-- Vector 4.7. -/
theorem test_locoMode :
    after (execLocoMode 3 2 (withLoco loco))
        (fun s => (s.locos.map fun e => (e.2.speedSteps, e.2.rvvvvvvv), s.events, s.host.pend.map Pending.bytes)) =
      some
        ([(2, 0x80)], [0x09000C0000000000, 0x0080400000000020, 0x04000C0000000000], some [0x03, 0x60, 0x63]) := by decide

/-- Vector 4.8. -/
theorem test_locoInfo :
    after (execLocoInfo 3 (withLoco loco)) (fun s => s.hostPort.resp) = some [0x008A800000000020] := by decide

/-- Vector 4.9. -/
theorem test_locoRailcom :
    after (execLocoRailcom 3 (withLoco { loco with rcSpeed := 300, rcQos := 200, rcOptions := 7 }))
      (fun s => s.hostPort.resp) = some [0x00012CC807000000] := by decide

/-- Vectors 4.10 and 4.11. -/
theorem test_locoErase :
    after (execLocoErase 5 (withLoco loco)) (fun s => (s.locos, s.events)) =
      some ([(3, loco)], [0x0A00140000000000]) ∧
    after (execLocoErase 3 (withLoco loco)) (fun s => (s.locos, s.events)) = some ([], [0x0A000C0000000000]) := by decide

/-- Vector 4.12. -/
theorem test_locoEraseAll :
    after (execLocoEraseAll (withLoco loco)) (fun s => (s.locos, s.events)) = some ([], [0x0B00000000000000]) := by decide

/-- Vector 4.15, and its `NOT_OWNER` in `Suspended`. -/
theorem test_cvRead :
    after (execCvRead 1023 (inState 0x0100) setA) (fun s => (s.cvsvc, s.hostPort.resp)) =
      some ([{ op := .read, cvi := 1023, data := 0 }], [0]) ∧
    after (execCvRead 1023 (inState 0x0001) setA) (fun s => s.hostPort.resp) = some [0x0500000000000000] := by decide

/-- Vector 4.16. -/
theorem test_cvWrite :
    after (execCvWrite 2 5 (inState 0x0200) setA) (fun s => s.cvsvc) = some [{ op := .write, cvi := 2, data := 5 }] := by
  decide

/-- Vector 4.17 at time 7. -/
theorem test_cvPomRead :
    after (execCvPomRead 3 2 { inState 0x0100 with now := 7 } setA) (fun s => (s.locos, s.cvpom, s.events)) =
      some
        ([(3, locoDefault)], [{ op := .read, addr := 3, cvi := 2, data := 0, deadline := 500007, sent := false }], []) := by
  decide

/-- Vector 4.18. -/
theorem test_cvPomWrite :
    after (execCvPomWrite 4 2 5 (inState 0x0100) setA) (fun s => (s.locos, s.cvpom)) =
      some ([], [{ op := .write, addr := 4, cvi := 2, data := 5, deadline := 500000, sent := false }]) := by decide

/-- Vector 4.20, and R247: a wrong checksum is a bad operand. -/
theorem test_sendFront :
    after (execSendFront [0xFF, 0x00, 0xFF] (inState 0x0100)) (fun s => (s.host.phase, s.host.pend)) =
      some (.hPush, some { target := .frontq, bytes := [0xFF, 0x00, 0xFF], adm := 0x0100 }) ∧
    after (execSendFront [0xFF, 0x00, 0xFE] (inState 0x0100)) (fun s => s.hostPort.resp) =
      some [0x0400000000000000] := by decide

/-- Vector 4.21. -/
theorem test_sendBack :
    after (execSendBack [0x03, 0x3F, 0x8A, 0xB6] (inState 0x0200)) (fun s => s.host.pend) =
      some (some { target := .backq, bytes := [0x03, 0x3F, 0x8A, 0xB6], adm := 0x0200 }) := by decide

/-- R400: admitted in the DECUP modes only. -/
theorem test_decupTx :
    after (execDecupTx [1] (inState 0x0300) setA) (fun s => s.host.pend) =
      some (some { target := .decupInq, bytes := [1], adm := 0x0300 }) ∧
    after (execDecupTx [1] (inState 0x0500) setA) (fun s => s.hostPort.resp) = some [0x0500000000000000] := by decide

/-- R430: at least one byte. -/
theorem test_mduTx :
    after (execMduTx [1] (inState 0x0600) setA) (fun s => s.host.pend) =
      some (some { target := .mduInq, bytes := [1], adm := 0x0600 }) ∧
    after (execMduTx [] (inState 0x0600) setA) (fun s => s.hostPort.resp) = some [0x0400000000000000] := by decide

/-- Section 0.2, and R118: `DccBit1Duration` 0 is illegal, 0x20 is read-only. -/
theorem test_cfgWrite :
    after (execCfgWrite 1 58 State.reset) (fun s => (s.cfg, s.act, s.hostPort.resp)) =
      some ({ bit1Duration := some 58 }, {}, [0]) ∧
    after (execCfgWrite 1 0 State.reset) (fun s => s.hostPort.resp) = some [0x0400000000000000] ∧
    after (execCfgWrite 0x20 1 State.reset) (fun s => s.hostPort.resp) = some [0x0400000000000000] := by decide

/-- R118 and R250: `STATE` after reset, a setting never written, and a reserved index. -/
theorem test_cfgRead :
    after (execCfgRead 0x00 State.reset setA) (fun s => s.hostPort.resp) = some [0x0000000000000001] ∧
    after (execCfgRead 0x01 State.reset setA) (fun s => s.hostPort.resp) = some [0x0700000000000000] ∧
    after (execCfgRead 0x0F State.reset setA) (fun s => s.hostPort.resp) = some [0x0400000000000000] := by decide

/-- DCCDRV in `D_SELECT` with the timing T17, or T20 in service mode, of section 0.2. -/
def selecting (m : Mode) : State :=
  { State.reset with
    arbState := modeValue m
    act := { bit1Duration := some 58, bit0Duration := some 100, preamble := some 17, bidiBitDuration := some 0 }
    dcc := { State.reset.dcc with phase := .dSelect, mode := some m } }

/-- How many symbols were sent, when the transmission ends, and the driver's phase. -/
def sent (o : Res) : Option (Nat × Nat × DccPhase) :=
  after o fun s => (s.track.length, s.dcc.txEnd, s.dcc.phase)

/-- Section 5.2: 17 preamble bits, 9 for each of 3 bytes, the end bit. -/
theorem test_dccIdle : sent (execDccIdle (selecting .dccOperations) setA) = some (45, 6144, .dTx) := by decide +kernel

/-- Section 5.2, in both modes. -/
theorem test_dccReset :
    sent (execDccReset (selecting .dccOperations) setA) = some (45, 7488, .dTx) ∧
    sent (execDccReset (selecting .dccService) setA) = some (48, 7836, .dTx) := by decide +kernel

/-- `[03, 7F, 7C]`: 14 ones and 10 zeros, 116 (17 + 14) + 200 (3 + 10) + 116 by R319. -/
theorem test_dccSpeed14 :
    sent (execDccSpeed14 3 true true 15 0x7C (selecting .dccOperations) setA) = some (45, 6312, .dTx) := by decide +kernel

/-- Section 5.2, `[03, 60, 63]`. -/
theorem test_dccSpeed28 :
    sent (execDccSpeed28 3 true 0 0x63 (selecting .dccOperations) setA) = some (45, 6816, .dTx) := by decide +kernel

/-- Section 5.2, `[03, 3F, 8A, B6]`. -/
theorem test_dccSpeed128 :
    sent (execDccSpeed128 3 true 10 0xB6 (selecting .dccOperations) setA) = some (54, 7944, .dTx) := by decide +kernel

/-- Section 5.2, `[03, 80, 83]`. -/
theorem test_dccFg1 : sent (execDccFg1 3 0 0x83 (selecting .dccOperations) setA) = some (45, 6984, .dTx) := by decide +kernel

/-- Section 5.2, `[03, B0, B3]`. -/
theorem test_dccFg2a : sent (execDccFg2a 3 0 0xB3 (selecting .dccOperations) setA) = some (45, 6648, .dTx) := by
  decide +kernel

/-- Section 5.2, `[03, A0, A3]`. -/
theorem test_dccFg2b : sent (execDccFg2b 3 0 0xA3 (selecting .dccOperations) setA) = some (45, 6816, .dTx) := by
  decide +kernel

/-- `[03, DE, 01, DC]`: 14 ones and 18 zeros, 116 (17 + 14) + 200 (4 + 18) + 116 by R319. -/
theorem test_dccFg3 : sent (execDccFg3 3 1 0xDC (selecting .dccOperations) setA) = some (54, 8112, .dTx) := by
  decide +kernel

/-- `[03, DF, 80, 5C]`: 14 ones too. -/
theorem test_dccFg4 : sent (execDccFg4 3 0x80 0x5C (selecting .dccOperations) setA) = some (54, 8112, .dTx) := by
  decide +kernel

/-- `[03, D8, 04, DF]`: 14 ones too. -/
theorem test_dccFg5 : sent (execDccFg5 3 4 0xDF (selecting .dccOperations) setA) = some (54, 8112, .dTx) := by
  decide +kernel

/-- Section 5.2, `[03, E4, 02, 00, E5]`. -/
theorem test_dccPomRead : sent (execDccPomRead 3 2 0xE5 (selecting .dccOperations) setA) = some (63, 10080, .dTx) := by
  decide +kernel

/-- `[03, EC, 02, 05, E8]`: 14 ones and 26 zeros, 116 (17 + 14) + 200 (5 + 26) + 116 by R319. -/
theorem test_dccPomWrite : sent (execDccPomWrite 3 2 5 0xE8 (selecting .dccOperations) setA) = some (63, 9912, .dTx) := by
  decide +kernel

/-- Section 5.2, `[74, 00, 00, 74]` at T20. -/
theorem test_dccSvcVerifyByte :
    sent (execDccSvcVerifyByte 0 0 0x74 (selecting .dccService) setA) = some (57, 8964, .dTx) := by decide +kernel

/-- Section 5.2, `[7C, 00, 05, 79]` at T20. -/
theorem test_dccSvcWriteByte :
    sent (execDccSvcWriteByte 0 5 0x79 (selecting .dccService) setA) = some (57, 8628, .dTx) := by decide +kernel

/-- Section 5.2, `[78, 00, E8, 90]` at T20. -/
theorem test_dccSvcVerifyBit :
    sent (execDccSvcVerifyBit 0 true 0 0x90 (selecting .dccService) setA) = some (57, 8796, .dTx) := by decide +kernel

/-- A sent POM read of CV 3 of loco 3. -/
def pomSent : PomReq :=
  { op := .read, addr := 3, cvi := 2, data := 0, deadline := 500000, sent := true }

/-- Vector 6.3.3. -/
theorem test_bidiAppPom :
    after (execBidiAppPom 42 { withLoco loco with cvpom := [pomSent], rxPkt := [0x03, 0xE4, 0x02, 0x00, 0xE5] })
        (fun s => (s.cvpom, s.events)) = some ([], [0x01000C022A000000]) := by decide

/-- Vectors 6.3.4 and 6.3.5. -/
theorem test_bidiAppPom_ignored :
    after (execBidiAppPom 42
        { withLoco loco with cvpom := [{ pomSent with sent := false }], rxPkt := [0x03, 0xE4, 0x02, 0x00, 0xE5] })
        (fun s => (s.cvpom.length, s.events)) = some (1, []) ∧
    after (execBidiAppPom 42 { withLoco loco with cvpom := [pomSent], rxPkt := [0x03, 0x3F, 0x80, 0xBC] })
        (fun s => (s.cvpom.length, s.events)) = some (1, []) := by decide

/-- Vectors 6.3.7 to 6.3.9. -/
theorem test_bidiAppDyn :
    after (execBidiAppDyn 100 0 { withLoco loco with rxPkt := [0x03, 0x3F, 0x80, 0xBC] })
        (fun s => (s.locos.map fun e => (e.2.rcSpeed, e.2.rcOptions), s.events)) =
      some ([(100, 1)], [0x05000C0000000000]) ∧
    after (execBidiAppDyn 44 1 { withLoco loco with rxPkt := [0x03, 0x3F, 0x80, 0xBC] })
        (fun s => s.locos.map fun e => (e.2.rcSpeed, e.2.rcOptions)) = some [(300, 2)] ∧
    after (execBidiAppDyn 200 7 { withLoco loco with rxPkt := [0x03, 0x3F, 0x80, 0xBC] })
        (fun s => s.locos.map fun e => (e.2.rcQos, e.2.rcOptions)) = some [(200, 4)] := by decide

/-- Vectors 6.3.10, 6.3.21 and 6.3.22. -/
theorem test_bidiAppDyn_ignored :
    after (execBidiAppDyn 50 3 { withLoco loco with rxPkt := [0x03, 0x3F, 0x80, 0xBC] }) State.events = some [] ∧
    after (execBidiAppDyn 100 0 { withLoco loco with rxPkt := [0xFF, 0x00, 0xFF] }) State.events = some [] ∧
    after (execBidiAppDyn 100 0 { withLoco loco with rxPkt := [0x05, 0x3F, 0x80, 0xBA] }) State.events = some [] := by decide

/-- R116. -/
theorem test_response :
    after (execResponse 0x01 2 { State.reset with issuer := .ext }) (fun s => (s.extPort.resp, s.hostPort.resp)) =
      some ([0x0100000000000002], []) := by decide

/-- R117. -/
theorem test_event :
    after (execEvent 0x09 3 0 0 (some 0x8A800000000020) State.reset) State.events =
      some [0x09000C0000000000, 0x008A800000000020] := by decide

/-- Vectors 6.3.16 and 6.3.19: two datagrams, and one before `BUSY`. -/
theorem test_feedback_parse :
    feedbackInstrs setA { pkt := [], dg := [0, 0, 0xAC, 0xC9, 0x59, 0x47, 0xAC, 0], n1 := 0, n2 := 5 } =
      [.bidiAppPom 42, .bidiAppDyn 100 0] ∧
    feedbackInstrs setA { pkt := [], dg := [0, 0, 0xAC, 0xC9, 0xE1, 0x59, 0, 0], n1 := 0, n2 := 4 } = [.bidiAppPom 42] := by
  decide

/-- Vectors 6.3.15 and 6.3.17. -/
theorem test_feedback_discard :
    feedbackInstrs setA { pkt := [], dg := [0, 0, 0xAC, 0xC8, 0, 0, 0, 0], n1 := 0, n2 := 2 } = [] ∧
    feedbackInstrs setA { pkt := [], dg := [0, 0, 0xA3, 0xAC, 0, 0, 0, 0], n1 := 0, n2 := 2 } = [] := by decide

/-- Vectors 6.2.2 and 6.2.4. -/
theorem test_capture :
    capturedEntry [] 0b10 [0xAC, 0xC9] = some { pkt := [], dg := [0, 0, 0xAC, 0xC9, 0, 0, 0, 0], n1 := 0, n2 := 2 } ∧
    capturedEntry [] 0b01 [1, 2, 3] = some { pkt := [], dg := [1, 2, 3, 0, 0, 0, 0, 0], n1 := 2, n2 := 1 } := by decide

/-! ### Witnesses: states and operands that meet the hypotheses of the statements -/

/-- A state with one move on its agenda. -/
def move (m : Move) (s : State) : State :=
  { s with agenda := [m] }

/-- The fields of a state that `NextIs` asks for. -/
theorem nextIs_move (m : Move) {s : State} (h1 : s.fatal = none) (h2 : s.outLatch = none) : NextIs (move m s) m [] :=
  ⟨h1, h2, rfl⟩

theorem locoGet_replicate {a b : Addr} (h : a ≠ b) (l : Loco) (n : Nat) : locoGet a (List.replicate n (b, l)) = none := by
  induction n with
  | zero => rfl
  | succ n ih => rw [List.replicate_succ, locoGet, if_neg h, ih]

/-- A full loco table without the address 3. -/
def tableFull : State :=
  { inState 0x0100 with locos := List.replicate Config.params.locoMax (5, loco) }

theorem tableFull_noRoom : ¬locoRoom Config.params 3 tableFull := by
  have h : locoGet 3 tableFull.locos = none := locoGet_replicate (by decide) loco _
  have hl : tableFull.locos.length = Config.params.locoMax := List.length_replicate
  rintro (h1 | h1)
  · rw [h] at h1; cases h1
  · omega

theorem room_of_loco : locoRoom Config.params 3 (withLoco loco) := .inl (by decide)

theorem room_of_empty : locoRoom Config.params 3 (inState 0x0100) := .inr (by simp [inState, State.reset, Config.params])

/-- DCCDRV in a phase of a mode. -/
def dccIn (p : DccPhase) (m : Mode) (v : BitVec 16) : State :=
  { inState v with dcc := { State.reset.dcc with phase := p, mode := some m } }

/-- DECUPDRV in a phase of `DECUPZpp`. -/
def decupIn (p : DecupPhase) (v : BitVec 16) : State :=
  { inState v with decup := { State.reset.decup with phase := p, mode := some .decupZpp, cur := some [1] } }

/-- MDUDRV in a phase of `MDUZpp`. -/
def mduIn (p : MduPhase) (v : BitVec 16) : State :=
  { inState v with mdu := { State.reset.mdu with phase := p, mode := some .mduZpp, cur := some [1] } }

/-- SCHED in a phase. -/
def schedIn (p : SchedPhase) (v : BitVec 16) : State :=
  { inState v with sched := { SchedRegs.reset with phase := p } }

/-- Every setting written. -/
def written : Settings :=
  { bit1Duration := some 58, bit0Duration := some 100, preamble := some 17, bidiBitDuration := some 0, programmingType := some 1,
    programPacketCount := some 2, startupResetPacketCount := some 1, continueResetPacketCount := some 1,
    programmingAckCurrent := some 12, mduPreamble := some 10, mduAckreq := some 5, currentLimit := some 2,
    currentLimitService := some 0, currentShortCircuitTime := some 1 }

/-- Boundaries: broadcast, the addresses around the short and long ranges, an empty and a full payload. -/
theorem witness_DecodeEncodeRoundTrip :
    WellFormed (.dccSpeed128 0 true 10 (0x00 ^^^ 0x3F ^^^ 0x8A)) = true ∧
    WellFormed (.dccSpeed128 127 true 10 (0x7F ^^^ 0x3F ^^^ 0x8A)) = true ∧
    WellFormed (.dccSpeed128 128 true 10 0xF5) = true ∧ WellFormed (.dccSpeed128 10239 true 2 0xA5) = true ∧
    WellFormed (.sendFront []) = true ∧ WellFormed (.sendFront (List.replicate 255 0)) = true ∧
    WellFormed (.event 0x09 3 0 0 (some 0)) = true := by decide +kernel

theorem witness_PayloadPacking :
    8 ≤ 8 * ([0x0102030405060708#64] : List Word).length ∧ 7 < 8 ∧ 9 ≤ 8 * ([0, 0] : List Word).length ∧ 8 < 9 := by decide

theorem witness_ResponsesAndEvents :
    State.reset.issuer = .host ∧ ({ State.reset with issuer := .analog } : State).issuer = .analog ∧
    ({ State.reset with issuer := .ext } : State).issuer = .ext := ⟨rfl, rfl, rfl⟩

/-- HOST about to execute a command without payload. -/
def executing (w : Word) : State :=
  move .host { State.reset with host := { phase := .hExec, cmd := some { word := w, payload := [] }, pend := none } }

theorem witness_StepRunsCommand_host :
    decodeCommand 0x0400000000000000#64 [] = .ok .short ∧ NextIs (executing 0x0400000000000000) .host [] ∧
    (executing 0x0400000000000000).host.phase = .hExec ∧
    (executing 0x0400000000000000).host.cmd = some { word := 0x0400000000000000, payload := [] } :=
  ⟨rfl, ⟨rfl, rfl, rfl⟩, rfl, rfl⟩

/-- A command on the port of ANALOG and on that of EXT. -/
def offered (m : Move) : State :=
  move m
    { State.reset with
      analogPort := { cmds := [0x0400000000000000], resp := [] }, extPort := { cmds := [0x0400000000000000], resp := [] } }

theorem witness_StepRunsCommand_analog_ext :
    NextIs (offered .analog) .analog [] ∧ NextIs (offered .ext) .ext [] ∧
    headCommand (offered .analog).analogPort.cmds = some ({ word := 0x0400000000000000, payload := [] }, []) ∧
    headCommand (offered .ext).extPort.cmds = some ({ word := 0x0400000000000000, payload := [] }, []) ∧
    arbitrationWord 0x0400000000000000 = true :=
  ⟨⟨rfl, rfl, rfl⟩, ⟨rfl, rfl, rfl⟩, by decide, by decide, by decide⟩

/-- DCCDRV about to select. -/
def aboutToSelect (m : Mode) (front back : List Packet) : State :=
  move (.dccdrv true) { selecting m with frontq := front, backq := back }

theorem dccTiming_selecting (m : Mode) (front back : List Packet) (h : m = .dccOperations ∨ m = .dccService) :
    (dccTiming Config.params m (aboutToSelect m front back).dcc.bidiOn (aboutToSelect m front back).act).isSome = true := by
  rcases h with rfl | rfl <;> rfl

theorem witness_StepRunsPacketsAndDatagrams_packet :
    NextIs (aboutToSelect .dccOperations [] []) (.dccdrv true) [] ∧
    (aboutToSelect .dccOperations [] []).dcc.phase = .dSelect ∧
    (aboutToSelect .dccOperations [] []).dcc.mode = some .dccOperations ∧
    (selectPacket .dccOperations (took [] (aboutToSelect .dccOperations [] []))).1.bytes = [0xFF, 0x00, 0xFF] ∧
    decode (.packet {} [0xFF, 0x00, 0xFF]) = .ok .dccIdle :=
  ⟨⟨rfl, rfl, rfl⟩, rfl, rfl, rfl, rfl⟩

/-- SCHED about to decode an entry. -/
def aboutToDecode : State :=
  move .sched
    { schedIn .opsBidi 0x0100 with
      feedbackq := [{ pkt := [0x03, 0xE4, 0x02, 0x00, 0xE5], dg := [0, 0, 0xAC, 0xC9, 0, 0, 0, 0], n1 := 0, n2 := 2 }] }

theorem witness_StepRunsPacketsAndDatagrams_datagram :
    NextIs aboutToDecode .sched [] ∧ aboutToDecode.sched.phase = .opsBidi ∧
    aboutToDecode.arbState = modeValue .dccOperations ∧ aboutToDecode.feedbackq.length = 1 :=
  ⟨⟨rfl, rfl, rfl⟩, rfl, by decide, rfl⟩

theorem witness_StepRunsPacketsAndDatagrams_placed :
    State.reset.fatal = none ∧
    ({ State.reset with outLatch := some (.response 0) } : State).outLatch = some (.response 0) ∧
    decode (.response 0) = .ok (.response 0 0) := ⟨rfl, rfl, by decide⟩

/-- Commands on HOST's port. -/
def portHolds (ws : List Word) : State :=
  move .host { State.reset with hostPort := { cmds := ws, resp := [] } }

/-- A command without payload, and one with exactly its payload word. -/
theorem witness_HostIntakeAndPush_intake :
    NextIs (portHolds [0x0400000000000000]) .host [] ∧ (portHolds [0x0400000000000000]).host.phase = .hIdle ∧
    payloadCount 0x0400000000000000 ≤ 0 ∧
    NextIs (portHolds [0x3000000000000300, 0xFF00FF0000000000]) .host [] ∧ payloadCount 0x3000000000000300 ≤ 1 :=
  ⟨⟨rfl, rfl, rfl⟩, rfl, by decide, ⟨rfl, rfl, rfl⟩, by decide⟩

/-- HOST waiting for a queue. -/
def pushing (v : BitVec 16) (front : List Packet) : State :=
  move .host
    { inState v with
      frontq := front
      host := { phase := .hPush, cmd := none, pend := some { target := .frontq, bytes := [0xFF, 0x00, 0xFF], adm := 0x0100 } } }

theorem witness_HostIntakeAndPush_push :
    NextIs (pushing 0x0100 []) .host [] ∧ (pushing 0x0100 []).host.phase = .hPush ∧
    0 < targetFree Config.params (pushing 0x0100 []) .frontq ∧
    targetFree Config.params (pushing 0x0100 (List.replicate Config.params.frontCap { bytes := [] })) .frontq = 0 ∧
    (pushing 0x0002 []).arbState ≠ 0x0100 :=
  ⟨⟨rfl, rfl, rfl⟩, rfl, by simp [targetFree, pushing, move, inState, Config.params],
    by simp [targetFree, pushing, move, inState], by decide⟩

/-- Reserved ids at both ends; every driver's mode from `Suspended`; a loss from another state. -/
theorem witness_AcquireRule :
    Mode.ofId 0x00 = none ∧ Mode.ofId 0x0D = none ∧ Mode.ofId 0x01 = some .dccOperations ∧ Mode.ofId 0x0C = some .ota ∧
    State.reset.arbState = 0x0001 ∧ driverQuiet State.reset .dcc = true ∧ driverQuiet State.reset .decup = true ∧
    driverQuiet State.reset .mdu = true ∧ driverQuiet State.reset .ext = true ∧ schedWaits State.reset = true ∧
    (inState 0x0100).arbState ≠ 0x0001 := by decide

theorem witness_SuspendRule :
    Mode.ofId 0x0D = none ∧ (0x0D : BitVec 8) ≠ 0xFF ∧ Mode.ofId 0x01 = some .dccOperations ∧
    (inState 0x0100).arbState = modeValue .dccOperations ∧ (inState 0x0200).arbState ≠ modeValue .dccOperations ∧
    modeOfState (inState 0x0001).arbState = none := by decide

theorem witness_PowerOnRule :
    (inState 0x0004).arbState = 0x0004 ∧ (inState 0x0001).arbState = 0x0001 ∧ allQuiet (inState 0x0004) = true ∧
    schedWaits (inState 0x0004) = true ∧ (inState 0x0100).arbState = 0x0100 ∧ (inState 0x0002).arbState ≠ 0x0004 ∧
    (inState 0x0002).arbState ≠ 0x0001 ∧ (inState 0x0002).arbState ≠ 0x0100 := by decide

/-- The ids at the ends of the external range. -/
theorem witness_ReleaseRule :
    ¬(0x07 ≤ (0x06 : BitVec 8).toNat ∧ (0x06 : BitVec 8).toNat ≤ 0x0C) ∧
    ¬(0x07 ≤ (0x0D : BitVec 8).toNat ∧ (0x0D : BitVec 8).toNat ≤ 0x0C) ∧
    0x07 ≤ (0x07 : BitVec 8).toNat ∧ (0x0C : BitVec 8).toNat ≤ 0x0C := by decide

/-- A driver that runs, SCHED before its abandon step (vector 3.8), and a cutout alarm that is due. -/
theorem witness_HeldMovesChangeNothing :
    Mode.ofId 0x01 = some .dccOperations ∧ driverQuiet (dccIn .dTeardown .dccOperations 0x0001) .dcc = false ∧
    schedWaits (schedIn .opsBidi 0x0001) = false ∧ allQuiet (dccIn .dTx .dccOperations 0x0004) = false ∧
    NextIs (move .time (decupIn .uWin2 0x0300)) .time [] ∧ urgentDue Config.params (move .time (decupIn .uWin2 0x0300)) = true :=
  ⟨rfl, by decide, by decide, by decide, ⟨rfl, rfl, rfl⟩, by decide⟩

/-- TIME with no urgent step, at the last instant from which it may advance. -/
theorem witness_HeldMovesChangeNothing_time :
    NextIs (move .time { State.reset with now := 2 ^ 64 - 2 }) .time [] ∧
    urgentDue Config.params (took [] (move .time { State.reset with now := 2 ^ 64 - 2 })) = false ∧
    (move .time { State.reset with now := 2 ^ 64 - 2 }).now + 1 < 2 ^ 64 :=
  ⟨⟨rfl, rfl, rfl⟩, by decide, by decide⟩

/-- The ends of a run, in `Suspended` and in `ShortCircuit`, with a move that is held there. -/
theorem witness_HeldMovesChangeNothing_end (ok : Bool) :
    NormalEnd (move .sched State.reset) ∧ NextIs (move .sched State.reset) .sched [] ∧ NormalEnd (move (.dccdrv ok) (inState 0x0004)) ∧
    NextIs (move (.dccdrv ok) (inState 0x0004)) (.dccdrv ok) [] :=
  ⟨⟨rfl, .inl rfl, by decide, rfl, rfl, rfl, rfl, rfl, rfl, rfl⟩, ⟨rfl, rfl, rfl⟩,
    ⟨rfl, .inr rfl, by cases ok <;> decide, rfl, rfl, rfl, rfl, rfl, rfl, rfl⟩, ⟨rfl, rfl, rfl⟩⟩

/-- A running DCC driver in its mode: the invariant holds and its check goes on. -/
theorem witness_ArbInvKept :
    ArbInv (move (.dccdrv true) (dccIn .dCheck .dccOperations 0x0100)) ∧
    ∃ t, step (move (.dccdrv true) (dccIn .dCheck .dccOperations 0x0100)) = .next t :=
  ⟨rfl, _, rfl⟩

/-- All drivers idle in `Suspended`, and each driver running in its own mode. -/
theorem witness_ArbInvMeansR211 :
    ArbInv (inState 0x0001) ∧ ArbInv (dccIn .dTx .dccOperations 0x0100) ∧ ArbInv (decupIn .uTx 0x0300) ∧
    ArbInv (mduIn .mTx 0x0500) := by
  exact ⟨rfl, rfl, rfl, rfl⟩

/-- A step that changes `STATE`, and one that raises a fault. -/
theorem witness_StateTransitions :
    ArbInv (executing 0x0400000000000000) ∧ (∃ t, step (executing 0x0400000000000000) = .next t) ∧
    ArbInv (move (.dccdrv true) (dccIn .dInit .dccOperations 0x0100)) ∧
    ∃ t r, step (move (.dccdrv true) (dccIn .dInit .dccOperations 0x0100)) = .next t ∧ t.fatal = some r :=
  ⟨rfl, ⟨_, rfl⟩, rfl, _, _, rfl, rfl⟩

theorem witness_CommandsTurnedAway :
    NextIs (executing 0x0600000000000000) .host [] ∧ Opcode.ofByte (CmdFields.ofWord 0x0600000000000000).op = none ∧
    Opcode.ofByte (CmdFields.ofWord 0x0100000000010001).op = some .acquire ∧
    (CmdFields.ofWord 0x0100000000010001).unusedZero .acquire = false ∧
    isHostOnly (.cfgRead 0) = true ∧ ({ State.reset with issuer := .ext } : State).issuer ≠ .host :=
  ⟨⟨rfl, rfl, rfl⟩, by decide, by decide, by decide, rfl, by decide⟩

/-- A command on the ports of ANALOG and of EXT. -/
def offeredWord (m : Move) (w : Word) : State :=
  move m { State.reset with analogPort := { cmds := [w], resp := [] }, extPort := { cmds := [w], resp := [] } }

/-- From ANALOG and EXT: the opcodes next to the arbitration ones, listed and not, and 0x01 and 0x05 with a bit that is not used. -/
theorem witness_CommandsTurnedAway_foreign :
    NextIs (offeredWord .analog 0x1600000000000000) .analog [] ∧ NextIs (offeredWord .ext 0x0600000000000000) .ext [] ∧
    headCommand (offeredWord .analog 0x1600000000000000).analogPort.cmds = some ({ word := 0x1600000000000000, payload := [] }, []) ∧
    headCommand (offeredWord .ext 0x0600000000000000).extPort.cmds = some ({ word := 0x0600000000000000, payload := [] }, []) ∧
    (CmdFields.ofWord 0x1600000000000000).op ∉ [0x01#8, 0x02#8, 0x03#8, 0x04#8, 0x05#8] ∧
    (CmdFields.ofWord 0x0600000000000000).op ∉ [0x01#8, 0x02#8, 0x03#8, 0x04#8, 0x05#8] ∧
    (CmdFields.ofWord 0x0100000000010001).op ∈ [0x01#8, 0x02#8, 0x03#8, 0x04#8, 0x05#8] ∧
    Opcode.ofByte (CmdFields.ofWord 0x0500000000010000).op = some .powerOn ∧
    (CmdFields.ofWord 0x0500000000010000).unusedZero .powerOn = false :=
  ⟨⟨rfl, rfl, rfl⟩, ⟨rfl, rfl, rfl⟩, by decide, by decide, by decide, by decide, by decide, by decide, by decide⟩

/-- The ends of the address range and of the speed ranges of 14, 28 and 126 steps; room and no room. -/
theorem witness_LocoDriveRule :
    (inState 0x0100).issuer = .host ∧ (addrLegal 0 && speedLegal 4 0x8A) = false ∧ (addrLegal 10240 && speedLegal 4 0x8A) = false ∧
    (addrLegal 3 && speedLegal 0 16) = false ∧ (addrLegal 3 && speedLegal 2 30) = false ∧ (addrLegal 3 && speedLegal 1 0) = false ∧
    (addrLegal 1 && speedLegal 0 15) = true ∧ (addrLegal 10239 && speedLegal 2 29) = true ∧
    (addrLegal 3 && speedLegal 4 0xFF) = true := by decide

theorem witness_LocoDriveRule_room :
    ¬locoRoom Config.params 3 tableFull ∧ locoRoom Config.params 3 (inState 0x0100) ∧ locoRoom Config.params 3 (withLoco loco) :=
  ⟨tableFull_noRoom, room_of_empty, room_of_loco⟩

theorem witness_LocoFunctionRule :
    tableFull.issuer = .host ∧ addrLegal 0 = false ∧ addrLegal 10240 = false ∧ addrLegal 1 = true ∧ addrLegal 10239 = true ∧
    addrLegal 3 = true ∧ ¬locoRoom Config.params 3 tableFull ∧ locoRoom Config.params 3 (withLoco loco) ∧ 31 < 32 :=
  ⟨rfl, by decide, by decide, by decide, by decide, by decide, tableFull_noRoom, room_of_loco, by decide⟩

theorem witness_LocoModeRule :
    (withLoco loco).issuer = .host ∧ (addrLegal 0 && stepsLegal 4) = false ∧ (addrLegal 3 && stepsLegal 3) = false ∧
    (addrLegal 3 && stepsLegal 0) = true ∧ (addrLegal 3 && stepsLegal 4) = true ∧ locoGet 3 (inState 0x0100).locos = none ∧
    locoGet 3 (withLoco loco).locos = some loco := by decide

theorem witness_LocoReadRule :
    addrLegal 0 = false ∧ addrLegal 10239 = true ∧ addrLegal 3 = true ∧ locoGet 10239 (withLoco loco).locos = none ∧
    locoGet 3 (withLoco loco).locos = some loco ∧ (withLoco loco).issuer = .host := by decide

theorem witness_LocoEraseRule : (withLoco loco).issuer = .host ∧ addrLegal 10240 = false ∧ addrLegal 10239 = true := by decide

theorem witness_NoCreateRule :
    (∃ t, exec (.locoInfo 3) (withLoco loco) = .next t) ∧ (∃ t, exec (.locoRailcom 3) (withLoco loco) = .next t) ∧
    (∃ t, exec (.locoMode 3 4) (withLoco loco) = .next t) ∧ (∃ t, exec (.locoErase 3) (withLoco loco) = .next t) ∧
    (∃ t, exec (.cvPomWrite 4 2 5) (inState 0x0100) = .next t) ∧ locoGet 4 (withLoco loco).locos = none :=
  ⟨⟨_, rfl⟩, ⟨_, rfl⟩, ⟨_, rfl⟩, ⟨_, rfl⟩, ⟨_, rfl⟩, by decide⟩

/-- A canonical table of two locos, with a first, a next and a last one. -/
theorem witness_LocoTableLaws :
    locosWf [(3, loco), (5, loco)] ∧ locoFirst [(3, loco), (5, loco)] = some 3 ∧
    locoAfter 3 [(3, loco), (5, loco)] = some 5 ∧ locoAfter 5 [(3, loco), (5, loco)] = none ∧ locoFirst [] = none := by
  refine ⟨?_, by decide, by decide, by decide, by decide⟩
  simp [locosWf]

theorem witness_LocoInvKept :
    LocoInv Config.params (executing 0x10000C008A040000) ∧ ∃ t, step (executing 0x10000C008A040000) = .next t :=
  ⟨⟨List.Pairwise.nil, Nat.zero_le _, by simp [executing, move, State.reset], Nat.le_refl _, minPriority_le_maxPriority⟩,
    _, rfl⟩

theorem witness_CvServiceRule :
    (inState 0x0001).issuer = .host ∧ inDccMode (inState 0x0001) = false ∧ inDccMode (inState 0x0100) = true ∧
    inDccMode (inState 0x0200) = true ∧
    Config.params.cvDequeCap ≤
      ({ inState 0x0100 with cvsvc := List.replicate Config.params.cvDequeCap { op := .read, cvi := 0, data := 0 } } : State).cvsvc.length ∧
    (inState 0x0100).cvsvc.length < Config.params.cvDequeCap :=
  ⟨rfl, by decide, by decide, by decide, by simp, by simp [inState, State.reset, Config.params]⟩

theorem witness_CvPomRule :
    (inState 0x0001).issuer = .host ∧ addrLegal 0 = false ∧ addrLegal 3 = true ∧ inDccMode (inState 0x0001) = false ∧
    inDccMode (inState 0x0100) = true ∧
    Config.params.cvDequeCap ≤
      ({ inState 0x0100 with cvpom := List.replicate Config.params.cvDequeCap pomSent } : State).cvpom.length ∧
    (inState 0x0100).cvpom.length < Config.params.cvDequeCap ∧ tableFull.cvpom.length < Config.params.cvDequeCap ∧
    inDccMode tableFull = true ∧ ¬locoRoom Config.params 3 tableFull ∧ locoRoom Config.params 3 (inState 0x0100) :=
  ⟨rfl, by decide, by decide, by decide, by decide, by simp, by simp [inState, State.reset, Config.params],
    by simp [tableFull, inState, State.reset, Config.params], by decide, tableFull_noRoom, room_of_empty⟩

/-- Payloads of 3 and 6 bytes, of 2 and 7, and with a wrong checksum; the ends of the DECUP and MDU lengths. -/
theorem witness_SendRule :
    (3 ≤ ([0xFF, 0x00, 0xFF] : List Byte).length ∧ ([0xFF, 0x00, 0xFF] : List Byte).length ≤ 6 ∧ xorAll [0xFF, 0x00, 0xFF] = 0) ∧
    (3 ≤ ([0xC0, 0x80, 0xE7, 0xFF, 0x00, 0x58] : List Byte).length ∧ ([0xC0, 0x80, 0xE7, 0xFF, 0x00, 0x58] : List Byte).length ≤ 6 ∧
      xorAll [0xC0, 0x80, 0xE7, 0xFF, 0x00, 0x58] = 0) ∧
    ¬(3 ≤ ([0, 0] : List Byte).length ∧ ([0, 0] : List Byte).length ≤ 6 ∧ xorAll [0, 0] = 0) ∧
    ¬(3 ≤ ([0, 0, 0, 0, 0, 0, 0] : List Byte).length ∧ ([0, 0, 0, 0, 0, 0, 0] : List Byte).length ≤ 6 ∧
      xorAll [0, 0, 0, 0, 0, 0, 0] = 0) ∧
    ¬(3 ≤ ([0xFF, 0x00, 0xFE] : List Byte).length ∧ ([0xFF, 0x00, 0xFE] : List Byte).length ≤ 6 ∧ xorAll [0xFF, 0x00, 0xFE] = 0) ∧
    inDccMode (inState 0x0200) = true ∧ inDccMode (inState 0x0300) = false ∧ (inState 0x0300).issuer = .host := by decide

theorem witness_SendRule_decup_mdu :
    (1 ≤ ([0] : List Byte).length ∧ ([0] : List Byte).length ≤ Config.params.decupMaxPacket) ∧
    (1 ≤ (List.replicate Config.params.decupMaxPacket (0 : Byte)).length ∧
      (List.replicate Config.params.decupMaxPacket (0 : Byte)).length ≤ Config.params.decupMaxPacket) ∧
    ¬(1 ≤ ([] : List Byte).length ∧ ([] : List Byte).length ≤ Config.params.decupMaxPacket) ∧
    (1 ≤ ([0] : List Byte).length ∧ ([0] : List Byte).length ≤ Config.params.mduMaxPacket) ∧
    ¬(1 ≤ (List.replicate (Config.params.mduMaxPacket + 1) (0 : Byte)).length ∧
      (List.replicate (Config.params.mduMaxPacket + 1) (0 : Byte)).length ≤ Config.params.mduMaxPacket) ∧
    (inState 0x0300).arbState = modeValue .decupZpp ∧ (inState 0x0400).arbState = modeValue .decupZsu ∧
    (inState 0x0500).arbState = modeValue .mduZpp ∧ (inState 0x0600).arbState = modeValue .mduZsu ∧
    (inState 0x0100).arbState ≠ modeValue .mduZpp := by
  refine ⟨?_, ?_, ?_, ?_, ?_, by decide, by decide, by decide, by decide, by decide⟩ <;>
    simp [Config.params]

/-- The ends of the writable indices, and the ends of a setting's values. -/
theorem witness_CfgWriteRule :
    State.reset.issuer = .host ∧ settingOfIndex 0x01 = some .bit1Duration ∧ settingOfIndex 0x0E = some .currentShortCircuitTime ∧
    settingLegal 1 .bit1Duration = true ∧ settingLegal 0 .bit1Duration = false ∧ settingLegal 3 .programmingType = true ∧
    settingLegal 4 .programmingType = false ∧ settingLegal 3 .currentLimit = true ∧ settingLegal 4 .currentLimit = false ∧
    settingOfIndex 0x00 = none ∧ settingOfIndex 0x0F = none := by decide

/-- A written and an unwritten setting, counts at the end of a byte, and the reserved indices at both ends of the gaps. -/
theorem witness_CfgReadRule :
    ({ State.reset with cfg := written } : State).issuer = .host ∧ getSetting written .bit1Duration = some 58 ∧
    settingOfIndex 0x01 = some .bit1Duration ∧ getSetting State.reset.cfg .bit1Duration = none ∧
    ({ State.reset with priorityCount := 255 } : State).priorityCount < 256 ∧ State.reset.cvsvc.length ≤ 255 ∧
    State.reset.cvpom.length ≤ 255 ∧
    (0x0F ≤ (0x0F : BitVec 8).toNat ∧ (0x0F : BitVec 8).toNat < 0x20) ∧ (0x0F ≤ (0x1F : BitVec 8).toNat ∧ (0x1F : BitVec 8).toNat < 0x20) ∧
    (0x0F ≤ (0x28 : BitVec 8).toNat ∧ 0x27 < (0x28 : BitVec 8).toNat) ∧ 0x27 < (0xFF : BitVec 8).toNat := by decide

theorem witness_CommandsFrame :
    isArbitration .short = true ∧ (∃ t, exec .short State.reset = .next t) ∧ isHostOnly (.cfgWrite 1 58) = true ∧
    (∃ t, exec (.cfgWrite 1 58) State.reset = .next t) ∧ isArbitration (.cfgWrite 1 58) = false ∧
    mayWriteLocos (.cfgWrite 1 58) = false ∧ mayEmit (.cfgWrite 1 58) = false ∧ mayQueueSvc .short = false ∧
    mayQueuePom .short = false ∧ ({ State.reset with issuer := .ext } : State).issuer ≠ .host ∧
    (∀ x d, Instr.short ≠ .cfgWrite x d) ∧ State.reset.issuer ≠ .analog ∧ State.reset.issuer ≠ .ext :=
  ⟨rfl, ⟨_, rfl⟩, rfl, ⟨_, rfl⟩, rfl, rfl, rfl, rfl, rfl, by decide, by simp, by decide, by decide⟩

theorem witness_PacketRowsAreSent :
    isPacketRow .dccIdle = true ∧ isPacketRow (.dccSvcVerifyBit 0 true 0 0x90) = true ∧
    (selecting .dccService).dcc.phase = .dSelect ∧ (selecting .dccService).dcc.mode = some .dccService ∧
    (dccTiming Config.params .dccService (selecting .dccService).dcc.bidiOn (selecting .dccService).act).isSome = true :=
  ⟨rfl, rfl, rfl, rfl, rfl⟩

/-- The ends of the durations, with and without BiDi, and the idle packet. -/
theorem witness_DurationIsSymbolSum :
    (∃ (t : DccTiming) (ones e : Nat), t.bit1 ≤ 255 ∧ t.bit0 ≤ 255 ∧ (∀ b, t.bidi = some b → 1 ≤ b ∧ b ≤ 255) ∧ t.bidi = some 255 ∧
      ones = (([0xFF, 0x00, 0xFF] : List Byte).map popcount).sum ∧
      e = (match t.bidi with | some b => b + max 1 (b - t.offset) | none => 2 * t.bit1)) ∧
    (∀ b, (some 1 : Option Nat) = some b → 1 ≤ b ∧ b ≤ 255) ∧ ∀ b, (none : Option Nat) = some b → 1 ≤ b ∧ b ≤ 255 :=
  ⟨⟨{ bit1 := 255, bit0 := 255, preamble := 17, bidi := some 255, offset := 0 }, 16, 510, by simp; decide⟩, by simp⟩

/-- A loco of each kind at the end of its speed range, and the ends of the addresses. -/
theorem witness_BuildersAreRows :
    (10239 : Addr).toNat ≤ 10239 ∧ (0 : Addr).toNat ≤ 10239 ∧
    ({ loco with speedSteps := 0, rvvvvvvv := 0x8F } : Loco).speedSteps = 0 ∧ ((0x8F : Byte).extractLsb' 0 7).toNat ≤ 15 ∧
    ({ loco with speedSteps := 2, rvvvvvvv := 0x9D } : Loco).speedSteps = 2 ∧ ((0x9D : Byte).extractLsb' 0 7).toNat ≤ 29 ∧
    loco.speedSteps = 4 ∧ pomSent.addr.toNat ≤ 10239 ∧ pomSent.op = .read ∧ ({ pomSent with op := .write } : PomReq).op = .write := by
  decide

theorem witness_BuiltPacketLengths :
    1 ≤ (1 : Addr).toNat ∧ (127 : Addr).toNat ≤ 127 ∧ ¬(128 : Addr).toNat ≤ 127 ∧ (10239 : Addr).toNat ≤ 10239 ∧
    ({ loco with speedSteps := 0 } : Loco).speedSteps = 0 ∧ ({ loco with speedSteps := 2 } : Loco).speedSteps = 2 ∧
    loco.speedSteps = 4 ∧ 1 ≤ pomSent.addr.toNat ∧ pomSent.addr.toNat ≤ 10239 := by decide

theorem witness_BuiltPacketsNameTheirLoco :
    1 ≤ (1 : Addr).toNat ∧ (1 : Addr).toNat ≤ 10239 ∧ 1 ≤ (10239 : Addr).toNat ∧ (10239 : Addr).toNat ≤ 10239 ∧
    1 ≤ pomSent.addr.toNat ∧ pomSent.addr.toNat ≤ 10239 := by decide

/-- A packet of FRONTQ before one of BACKQ, one of BACKQ alone, and the fillers of both modes. -/
theorem witness_SelectedPacketIsSentVerbatim :
    NextIs (aboutToSelect .dccService [] []) (.dccdrv true) [] ∧ (aboutToSelect .dccService [] []).dcc.phase = .dSelect ∧
    (aboutToSelect .dccService [] []).dcc.mode = some .dccService ∧
    (dccTiming Config.params .dccService (aboutToSelect .dccService [] []).dcc.bidiOn
      (aboutToSelect .dccService [] []).act).isSome = true ∧
    (aboutToSelect .dccOperations [{ bytes := [1] }] [{ bytes := [2] }]).frontq.head? = some { bytes := [1] } ∧
    (aboutToSelect .dccOperations [] [{ bytes := [2] }]).backq.head? = some { bytes := [2] } ∧
    (aboutToSelect .dccService [] []).frontq = [] ∧ (aboutToSelect .dccOperations [] []).backq = [] :=
  ⟨⟨rfl, rfl, rfl⟩, rfl, rfl, rfl, rfl, rfl, rfl, rfl⟩

theorem witness_PacketInvKept :
    PacketInv (executing 0x10000C008A040000) ∧ ∃ t, step (executing 0x10000C008A040000) = .next t :=
  ⟨⟨by simp [executing, move, State.reset], by simp [executing, move, State.reset], by simp [executing, move],
    by simp [executing, move, State.reset], by simp [executing, move, State.reset, SchedRegs.reset]⟩, _, rfl⟩

theorem witness_QueueInvKept :
    QueueInv Config.params (executing 0x10000C008A040000) ∧ ∃ t, step (executing 0x10000C008A040000) = .next t :=
  ⟨⟨Nat.zero_le _, Nat.zero_le _, Nat.zero_le _, Nat.zero_le _, Nat.zero_le _, Nat.zero_le _, Nat.zero_le _, Nat.zero_le _,
    Nat.zero_le _, Nat.zero_le _⟩, _, rfl⟩

/-- Each driver idle and resumed. -/
def resumed (m : Move) (v : BitVec 16) : State :=
  move m
    { inState v with
      dcc := { State.reset.dcc with resume := true }, decup := { State.reset.decup with resume := true }
      mdu := { State.reset.mdu with resume := true } }

theorem witness_DriverIdleStep (v : BitVec 16) :
    NextIs (resumed (.dccdrv true) v) (.dccdrv true) [] ∧ NextIs (resumed (.decupdrv true) v) (.decupdrv true) [] ∧
    NextIs (resumed (.mdudrv true) v) (.mdudrv true) [] ∧ (resumed (.dccdrv true) v).dcc.phase = .dIdle ∧
    (resumed (.dccdrv true) v).dcc.resume = true ∧ (resumed (.decupdrv true) v).decup.phase = .uIdle ∧
    (resumed (.decupdrv true) v).decup.resume = true ∧ (resumed (.mdudrv true) v).mdu.phase = .mIdle ∧
    (resumed (.mdudrv true) v).mdu.resume = true ∧ (resumed (.dccdrv true) 0x0100).arbState = modeValue .dccOperations ∧
    (resumed (.decupdrv true) 0x0400).arbState = modeValue .decupZsu ∧
    (resumed (.mdudrv true) 0x0500).arbState = modeValue .mduZpp ∧ (resumed (.dccdrv true) v).arbState = v :=
  ⟨⟨rfl, rfl, rfl⟩, ⟨rfl, rfl, rfl⟩, ⟨rfl, rfl, rfl⟩, rfl, rfl, rfl, rfl, rfl, rfl, by decide, by decide, by decide, rfl⟩

theorem witness_DccInitStep (ok : Bool) :
    NextIs (move (.dccdrv ok) { dccIn .dInit .dccService 0x0200 with cfg := written }) (.dccdrv ok) [] ∧
    (dccIn .dInit .dccService 0x0200).dcc.phase = .dInit ∧ (dccIn .dInit .dccService 0x0200).dcc.mode = some .dccService ∧
    getSetting written .currentLimitService = some 0 ∧ getSetting written .currentLimit = some 2 ∧
    settingsPresent written (settingsNeeded .dccService) = true ∧ settingsPresent written (settingsNeeded .dccOperations) = true ∧
    settingsPresent State.reset.cfg (settingsNeeded .dccOperations) = false :=
  ⟨⟨rfl, rfl, rfl⟩, rfl, rfl, rfl, rfl, by decide, by decide, by decide⟩

theorem witness_DccCheckAndTeardown :
    NextIs (move (.dccdrv true) (dccIn .dCheck .dccOperations 0x0002)) (.dccdrv true) [] ∧
    (dccIn .dCheck .dccOperations 0x0002).dcc.phase = .dCheck ∧ (dccIn .dCheck .dccOperations 0x0002).arbState = 0x0002 ∧
    (dccIn .dCheck .dccOperations 0x0100).arbState = modeValue .dccOperations ∧
    (dccIn .dCheck .dccOperations 0x0100).dcc.mode = some .dccOperations ∧
    NextIs (move (.dccdrv true) (dccIn .dTeardown .dccOperations 0x0004)) (.dccdrv true) [] ∧
    (dccIn .dTeardown .dccOperations 0x0004).dcc.phase = .dTeardown ∧ (dccIn .dTeardown .dccOperations 0x0004).arbState = 0x0004 ∧
    NextIs (move (.dccdrv false) (dccIn .dTeardown .dccOperations 0x0002)) (.dccdrv false) [] ∧
    (dccIn .dCheck .dccOperations 0x0200).arbState ≠ 0x0002 ∧ (dccIn .dCheck .dccOperations 0x0200).arbState ≠ 0x0004 ∧
    (dccIn .dCheck .dccOperations 0x0200).arbState ≠ modeValue .dccOperations :=
  ⟨⟨rfl, rfl, rfl⟩, rfl, rfl, by decide, rfl, ⟨rfl, rfl, rfl⟩, rfl, rfl, ⟨rfl, rfl, rfl⟩, by decide, by decide, by decide⟩

/-- DCCDRV sending a tagged packet that ends at time 10. -/
def sending (now : Nat) : State :=
  move (.dccdrv true)
    { dccIn .dTx .dccService 0x0200 with
      now := now
      dcc :=
        { State.reset.dcc with
          phase := .dTx, mode := some .dccService, txEnd := 10, cur := some { bytes := [0, 0, 0], first := true, last := true } } }

theorem witness_TxDoneStep :
    NextIs (sending 9) (.dccdrv true) [] ∧ (sending 9).dcc.phase = .dTx ∧ (sending 9).dcc.cur.isSome = true ∧
    (sending 9).now < (sending 9).dcc.txEnd ∧ NextIs (sending 10) (.dccdrv true) [] ∧ (sending 10).dcc.txEnd ≤ (sending 10).now ∧
    cutoutDue Config.params (sending 10) = false :=
  ⟨⟨rfl, rfl, rfl⟩, rfl, rfl, by decide, ⟨rfl, rfl, rfl⟩, by decide, rfl⟩

/-- The cutout waiting for an alarm that began at time 5. -/
def cutoutIn (p : CutoutPhase) (now : Nat) : State :=
  move .cutout { inState 0x0100 with now := now, cutout := { phase := p, t0 := 5, ts2Len := 0, ch1 := false } }

theorem witness_CutoutAlarms :
    NextIs (cutoutIn .cWaitTcs (5 + Config.params.tTcs)) .cutout [] ∧
    (cutoutIn .cWaitTcs (5 + Config.params.tTcs)).now = (cutoutIn .cWaitTcs (5 + Config.params.tTcs)).cutout.t0 + Config.params.tTcs ∧
    (cutoutIn .cWaitTs2 (5 + Config.params.tTs2)).now = (cutoutIn .cWaitTs2 (5 + Config.params.tTs2)).cutout.t0 + Config.params.tTs2 ∧
    (cutoutIn .cWaitTce (5 + Config.params.tTce)).now = (cutoutIn .cWaitTce (5 + Config.params.tTce)).cutout.t0 + Config.params.tTce :=
  ⟨⟨rfl, rfl, rfl⟩, rfl, rfl, rfl⟩

/-- DCCDRV at its capture, with a value of `NOTIFY`. -/
def capturing (v : BitVec 2) (fifo : List Byte) : State :=
  move (.dccdrv true)
    { dccIn .dCapture .dccOperations 0x0100 with
      notify := { pending := true, val := v }, uartFifo := fifo
      dcc := { State.reset.dcc with phase := .dCapture, mode := some .dccOperations, cur := some { bytes := [0xFF, 0x00, 0xFF] } } }

theorem witness_UartGateAndCapture :
    NextIs (move (.uart 0xAC) State.reset) (.uart 0xAC) [] ∧ class3May Config.params (move (.uart 0xAC) State.reset) = true ∧
    NextIs (capturing 3 [1, 2, 3]) (.dccdrv true) [] ∧ (capturing 3 [1, 2, 3]).dcc.phase = .dCapture ∧
    (capturing 3 [1, 2, 3]).dcc.cur = some { bytes := [0xFF, 0x00, 0xFF] } ∧ (capturing 3 [1, 2, 3]).notify.val.getLsbD 0 = true ∧
    (capturing 2 [1]).notify.val = 2 ∧ (capturing 0 []).notify.val = 0 :=
  ⟨⟨rfl, rfl, rfl⟩, by decide, ⟨rfl, rfl, rfl⟩, rfl, rfl, by decide, rfl, rfl⟩

/-- DCCDRV after the end of a transmission with BiDi, with and without the notification. -/
def awaiting (pending : Bool) : State :=
  move (.dccdrv true) { dccIn .dCutoutWait .dccOperations 0x0100 with notify := { pending := pending, val := 3 } }

theorem witness_UartGateAndCapture_wait (b : Bool) :
    NextIs (awaiting b) (.dccdrv true) [] ∧ (awaiting b).dcc.phase = .dCutoutWait ∧ (awaiting b).notify.pending = b :=
  ⟨⟨rfl, rfl, rfl⟩, rfl, rfl⟩

/-- Channel 2 with both `ACK`s, a datagram, and `NACK` with a datagram behind it; empty; and with a byte of another popcount. -/
theorem witness_DatagramParse :
    setA.Legal ∧ (∀ n, setA.bidiDecode (bidiDefaultEncode n) = .data n) ∧
    Config.params.Legal ∧ (∀ n, Config.params.bidiDecode (Config.bidiEncode n) = .data n) ∧
    (datagramSymbols (.bidiAppPom 42)).isSome = true ∧
    (([0, 0, 0x0F, 0xAC, 0xC9, 0xF0, 0x3C, 0xAC] : List Byte).drop 2).take 6 =
      (([.inl 0x0F, .inr (.bidiAppPom 42), .inl 0xF0] : List (Byte ⊕ Instr)).flatMap fun x =>
        match x with
        | .inl b => [b]
        | .inr i => ((datagramSymbols i).getD []).map bidiDefaultEncode) ++ [0x3C, 0xAC] ∧
    (∀ b ∈ (([0, 0, 0, 0, 0, 0, 0, 0] : List Byte).drop 2).take 2, b = 0) ∧
    (∃ b ∈ (([0, 0, 0xAC, 0xC8, 0, 0, 0, 0] : List Byte).drop 2).take 2, popcount b ≠ 4) :=
  ⟨setA_legal, bidiDefaultDecode_encode, params_legal, bidiDecode_encode, by decide⟩

/-- The ways a parse ends: at the end; at `NACK` with data behind it; at the ids 1 and 6 with data behind them; with no second and no
third symbol, at the end and before an `ACK`. -/
theorem witness_DatagramParse_ends :
    ParseEnd bidiDefaultEncode [] ∧ ParseEnd bidiDefaultEncode [0x3C, 0xAC] ∧ ParseEnd bidiDefaultEncode [bidiDefaultEncode 4, 0xAC] ∧ ParseEnd bidiDefaultEncode [bidiDefaultEncode 27, 0xAC] ∧
    ParseEnd bidiDefaultEncode [bidiDefaultEncode 3] ∧ ParseEnd bidiDefaultEncode [bidiDefaultEncode 28, 0xF0, 0xAC] ∧
    ParseEnd bidiDefaultEncode [bidiDefaultEncode 31, bidiDefaultEncode 63] ∧ ParseEnd bidiDefaultEncode [bidiDefaultEncode 28, bidiDefaultEncode 0, 0x0F] :=
  ⟨.atEnd, .stopByte _ _ (by decide) (by unfold bytesValid; decide), .otherId 4 _ (by decide) (by decide) (by unfold bytesValid; decide),
    .otherId 27 _ (by decide) (by decide) (by unfold bytesValid; decide), .noSecond 3 _ (.inl (by decide)) (.inl rfl),
    .noSecond 28 _ (.inr (by decide)) (.inr ⟨_, _, by decide, by unfold bytesValid; decide, rfl⟩), .noThird 31 63 _ (by decide) (.inl rfl),
    .noThird 28 0 _ (by decide) (.inr ⟨_, _, by decide, by unfold bytesValid; decide, rfl⟩)⟩

/-- R383 (c), R384: a missing third symbol, another id, and `ACK` 0xF0 before a datagram. -/
theorem test_feedback_ends :
    feedbackInstrs setA { pkt := [], dg := [0, 0, 0x59, 0x47, 0, 0, 0, 0], n1 := 0, n2 := 2 } = [] ∧
    feedbackInstrs setA { pkt := [], dg := [0, 0, 0xAC, 0xC9, 0xA3, 0xAC, 0xC9, 0], n1 := 0, n2 := 5 } = [.bidiAppPom 42] ∧
    feedbackInstrs setA { pkt := [], dg := [0, 0, 0xF0, 0xAC, 0xC9, 0, 0, 0], n1 := 0, n2 := 3 } = [.bidiAppPom 42] := by decide

/-- The words of the two datagram rows, with VV = 42, and DV = 100 with subindex 0, run in the step that fetches them. -/
theorem test_step_datagram_rows :
    after (step (State.reset.withFetchWord 12 42)) (fun s => (s.feedbackq, s.rxPkt)) = some ([], []) ∧
    after (step (State.reset.withFetchWord 18 (29 * 2 ^ 12 + 36 * 2 ^ 6))) (fun s => (s.feedbackq, s.rxPkt)) = some ([], []) := by
  have h1 : tableCode 12 42 = .datagram [0, 42] := by decide
  have h2 : tableCode 18 (29 * 2 ^ 12 + 36 * 2 ^ 6) = .datagram [29, 36, 0] := by decide
  rw [State.withFetchWord, State.withFetchWord, h1, h2, step_placeDatagram _ _ (by decide) (by decide),
    step_placeDatagram _ _ (by decide) (by decide)]
  decide

theorem witness_DatagramEffects :
    ({ withLoco loco with cvpom := [pomSent], rxPkt := [0x03, 0xE4, 0x02, 0x00, 0xE5] } : State).rxPkt = pomPacket pomSent ∧
    pomSent.sent = true ∧ (∀ e more, (withLoco loco).cvpom = e :: more → e.sent = true → (withLoco loco).rxPkt ≠ pomPacket e) ∧
    dccAddress [0x03, 0x3F, 0x80, 0xBC] = some 3 ∧ locoGet 3 (withLoco loco).locos = some loco ∧
    dccAddress [0xFF, 0x00, 0xFF] = none ∧ locoGet 5 (withLoco loco).locos = none := by
  refine ⟨by decide, by decide, ?_, by decide, by decide, by decide, by decide⟩
  intro e more h
  simp [withLoco, inState, State.reset] at h

theorem witness_DecupSession (p : DecupPhase) (v : BitVec 16) (ok : Bool) :
    NextIs (move (.decupdrv ok) { decupIn p v with cfg := written, decupInq := [[1], [2]] }) (.decupdrv ok) [] ∧
    (decupIn p v).cfg.currentLimit = none ∧ (decupIn p 0x0400).arbState ≠ 0x0002 ∧ (decupIn p 0x0400).arbState ≠ 0x0004 ∧
    (decupIn p 0x0400).arbState ≠ modeValue .decupZpp ∧
    (decupIn p v).decup.mode = some .decupZpp ∧ (decupIn p v).decup.phase = p ∧ written.currentLimit = some 2 ∧
    (decupIn p 0x0300).arbState = modeValue .decupZpp ∧ (decupIn p 0x0002).arbState ≠ modeValue .decupZpp ∧
    (decupIn p v).decupInq = [] ∧ (decupIn p v).decup.idleDeadline ≤ (decupIn p v).now :=
  ⟨⟨rfl, rfl, rfl⟩, rfl, (show (0x0400 : BitVec 16) ≠ 0x0002 by decide), (show (0x0400 : BitVec 16) ≠ 0x0004 by decide),
    (show (0x0400 : BitVec 16) ≠ modeValue .decupZpp by decide), rfl, rfl, rfl, (show (0x0300 : BitVec 16) = modeValue .decupZpp by decide),
    (show (0x0002 : BitVec 16) ≠ modeValue .decupZpp by decide), rfl, Nat.le_refl _⟩

theorem witness_MduSession (p : MduPhase) (v : BitVec 16) (ok : Bool) :
    NextIs (move (.mdudrv ok) { mduIn p v with cfg := written, act := written, mduInq := [[1], [2]] }) (.mdudrv ok) [] ∧
    ({ written with mduPreamble := none } : Settings).mduPreamble = none ∧ ({ written with mduAckreq := none } : Settings).mduAckreq = none ∧
    ({ written with currentLimit := none } : Settings).currentLimit = none ∧ (mduIn p 0x0600).arbState ≠ 0x0002 ∧
    (mduIn p 0x0600).arbState ≠ 0x0004 ∧ (mduIn p 0x0600).arbState ≠ modeValue .mduZpp ∧
    (mduIn p v).mdu.mode = some .mduZpp ∧ (mduIn p v).mdu.phase = p ∧ written.mduPreamble = some 10 ∧
    written.mduAckreq = some 5 ∧ written.currentLimit = some 2 ∧ (mduIn p 0x0500).arbState = modeValue .mduZpp ∧
    (mduIn p 0x0004).arbState ≠ modeValue .mduZpp ∧ (mduIn p v).mduInq = [] ∧
    (mduIn p v).mdu.idleDeadline ≤ (mduIn p v).now ∧ (mduIn p v).mdu.txEnd ≤ (mduIn p v).now ∧
    cutoutDue Config.params (mduIn p v) = false :=
  ⟨⟨rfl, rfl, rfl⟩, rfl, rfl, rfl, (show (0x0600 : BitVec 16) ≠ 0x0002 by decide), (show (0x0600 : BitVec 16) ≠ 0x0004 by decide),
    (show (0x0600 : BitVec 16) ≠ modeValue .mduZpp by decide), rfl, rfl, rfl, rfl, rfl, (show (0x0500 : BitVec 16) = modeValue .mduZpp by decide),
    (show (0x0004 : BitVec 16) ≠ modeValue .mduZpp by decide), rfl, Nat.le_refl _, Nat.le_refl _, rfl⟩

/-- An edge in a window; the end of a transmission; and the polls with and without an edge. -/
theorem witness_DecupAckDetection :
    NextIs (move .edge (decupIn .uWin1 0x0300)) .edge [] ∧ class3May Config.params (move .edge (decupIn .uWin1 0x0300)) = true ∧
    (decupIn .uWin1 0x0300).mdu.phase ≠ .mTx ∧ NextIs (move (.decupdrv true) (decupIn .uTx 0x0300)) (.decupdrv true) [] ∧
    (decupIn .uTx 0x0300).decup.cur = some [1] ∧ cutoutDue Config.params (decupIn .uTx 0x0300) = false ∧
    (decupIn .uTx 0x0300).decup.txEnd ≤ (decupIn .uTx 0x0300).now ∧ class2Due (decupIn .uWin1 0x0300) = false ∧
    (decupIn .uWin1 0x0300).decup.edges = 0 ∧ (decupIn .uWin1 0x0300).decup.winDeadline ≤ (decupIn .uWin1 0x0300).now ∧
    1 ≤ ({ (decupIn .uWin1 0x0300).decup with edges := 255 } : DecupRegs).edges ∧
    (decupIn .uWin2 0x0300).decup.t2 ≤ (decupIn .uWin2 0x0300).now ∧
    (decupIn .uSettle 0x0300).decup.settleEnd ≤ (decupIn .uSettle 0x0300).now :=
  ⟨⟨rfl, rfl, rfl⟩, by decide, by decide, ⟨rfl, rfl, rfl⟩, rfl, rfl, Nat.le_refl _, by decide, rfl, Nat.le_refl _, by decide,
    Nat.le_refl _, Nat.le_refl _⟩

theorem witness_DecupAckDetection_reply :
    (decupIn .uSettle 0x0300).decupReply.length < Config.params.replyCap := by
  simp [decupIn, inState, State.reset, Config.params]

/-- Edges outside the windows, in the phases next to them and with MDUDRV out of `M_TX`; a reply and none. -/
theorem witness_DecupAckDetection_outside :
    NextIs (move .edge (decupIn .uTx 0x0300)) .edge [] ∧ (decupIn .uTx 0x0300).decup.phase ≠ .uWin1 ∧
    (decupIn .uTx 0x0300).decup.phase ≠ .uWin2 ∧ (decupIn .uSettle 0x0300).decup.phase ≠ .uWin2 ∧
    (decupIn .uSettle 0x0300).mdu.phase ≠ .mTx ∧
    NextIs (move .replyDecup { State.reset with decupReply := [2, 1] }) .replyDecup [] ∧ State.reset.decupReply = [] :=
  ⟨⟨rfl, rfl, rfl⟩, by decide, by decide, by decide, by decide, ⟨rfl, rfl, rfl⟩, rfl⟩

/-- MDUDRV at its evaluation, with a capture. -/
def evaluating (c : Option (BitVec 32)) : State :=
  move (.mdudrv true)
    { mduIn .mEval 0x0500 with
      act := written
      mdu := { State.reset.mdu with phase := .mEval, mode := some .mduZpp, cur := some [1], capture := c } }

/-- MDUDRV in a transmission, and an edge to come. -/
def sendingMdu : State :=
  move .edge { mduIn .mTx 0x0500 with mdu := { (mduIn .mTx 0x0500).mdu with txEnd := 5 } }

theorem witness_MduAckDetection :
    NextIs sendingMdu .edge [] ∧ class3May Config.params sendingMdu = true ∧ sendingMdu.decup.phase ≠ .uWin1 ∧
    sendingMdu.decup.phase ≠ .uWin2 ∧ sendingMdu.mdu.phase = .mTx ∧ sendingMdu.now - sendingMdu.mdu.timerBase < 2 ^ 32 ∧
    NextIs (evaluating none) (.mdudrv true) [] ∧ (evaluating none).mdu.phase = .mEval ∧ (evaluating none).mdu.cur = some [1] ∧
    (evaluating none).act.mduPreamble = some 10 ∧ (evaluating none).act.mduAckreq = some 5 ∧
    cutoutDue Config.params (evaluating none) = false ∧ class2Due (evaluating none) = false ∧
    (evaluating none).mdu.capture = none ∧ (evaluating (some 7)).mdu.capture = some 7 :=
  ⟨⟨rfl, rfl, rfl⟩, by decide, by decide, by decide, rfl, by decide, ⟨rfl, rfl, rfl⟩, rfl, rfl, rfl, rfl, rfl, by decide, rfl,
    rfl⟩

theorem witness_MduAckDetection_outside :
    NextIs (move .edge (mduIn .mEval 0x0500)) .edge [] ∧ (mduIn .mEval 0x0500).mdu.phase ≠ .mTx ∧
    (mduIn .mWaitPkt 0x0500).mdu.phase ≠ .mTx ∧ NextIs (move .replyMdu { State.reset with mduReply := [2, 1] }) .replyMdu [] ∧
    State.reset.mduReply = [] :=
  ⟨⟨rfl, rfl, rfl⟩, by decide, by decide, ⟨rfl, rfl, rfl⟩, rfl⟩

theorem witness_MduAckDetection_counts :
    (evaluating (some 7)).mduReply.length < Config.params.replyCap ∧
    ∃ short long, Config.params.mduExpectedCounts [1] 10 5 (Config.params.mduRates (evaluating (some 7)).mdu.rate) = (short, long) :=
  ⟨by simp [evaluating, move, mduIn, inState, State.reset, Config.params], _, _, rfl⟩

/-- The detector with a window of `n` zeros. -/
def sampling (p : SvcAckPhase) (n : Nat) : State :=
  move (.sample 7)
    { inState 0x0200 with
      act := written, svcack := { phase := p, win := List.replicate n 0, sum := 0, zeros := n, ref := some 0, ackSeen := false } }

/-- Off, idle, armed one sample before the window is full, and armed with the sample that fills it. -/
theorem witness_AckDetection :
    NextIs (sampling .aOff 0) (.sample 7) [] ∧ class3May Config.params (sampling .aOff 0) = true ∧
    (sampling .aOff 0).svcack.phase = .aOff ∧ (sampling .aIdle 0).svcack.phase = .aIdle ∧
    (((sampling .aArmed 198).svcack.win ++ [7]).drop (198 + 1 - 200)).length ≠ 200 ∧
    (((sampling .aArmed 199).svcack.win ++ [7]).drop (199 + 1 - 200)).length = 200 ∧
    (sampling .aArmed 199).svcack.ref = some 0 ∧ (sampling .aArmed 199).act.programmingAckCurrent = some 12 := by
  refine ⟨⟨rfl, rfl, rfl⟩, by decide, rfl, rfl, ?_, ?_, rfl, rfl⟩
  · show ((List.replicate 198 (0 : BitVec 16) ++ [7]).drop (198 + 1 - 200)).length ≠ 200
    rw [List.length_drop, List.length_append, List.length_replicate]; decide
  · show ((List.replicate 199 (0 : BitVec 16) ++ [7]).drop (199 + 1 - 200)).length = 200
    rw [List.length_drop, List.length_append, List.length_replicate]; rfl

theorem witness_DetectorInvKept :
    CodeInv (sampling .aIdle 0) ∧ AckInv (sampling .aIdle 0) ∧ ∃ t, step (sampling .aIdle 0) = .next t :=
  ⟨⟨Nat.zero_le _, Nat.zero_le _, by simp [sampling, move, inState, State.reset], by simp [sampling, move, inState, State.reset]⟩,
    ⟨Nat.zero_le _, rfl, rfl⟩, _, rfl⟩

/-- SCHED's move in a phase of the operations loop. -/
def operating (p : SchedPhase) : State :=
  move .sched { schedIn p 0x0100 with locos := [(3, loco)], sched := { SchedRegs.reset with phase := p, it := some 3 } }

theorem witness_OperationsLoop :
    NextIs (operating .opsLoco) .sched [] ∧ (operating .opsLoco).arbState = modeValue .dccOperations ∧
    (operating .opsIdleFill).sched.phase = .opsIdleFill ∧ (operating .opsLoco).sched.it = some 3 ∧
    locoGet 3 (operating .opsLoco).locos = some loco ∧ (operating .opsLoco).priorityCount % loco.priority = 0 ∧
    (operating .opsBidi).feedbackq = [] :=
  ⟨⟨rfl, rfl, rfl⟩, by decide, rfl, rfl, by decide, by decide, rfl⟩

/-- The first element of the packet list, an empty and a full `BACKQ`. -/
theorem witness_OperationsLoop_room :
    (locoPackets Config.params)[(operating .opsLoco).sched.k]? = some .speed ∧
    Config.params.backCap ≤ 4 * (Config.params.backCap - (operating .opsLoco).backq.length) ∧
    4 * (Config.params.backCap - (List.replicate Config.params.backCap ({ bytes := [] } : Packet)).length) < Config.params.backCap := by
  refine ⟨rfl, ?_, ?_⟩
  · have : (operating .opsLoco).backq.length = 0 := rfl
    omega
  · have : 1 ≤ Config.params.backCap := Nat.le_trans (by decide) params_legal.backCap.1
    simp
    omega

/-- `IDLE` in both DCC modes and in another; the start with and without locos, with an empty and a full `BACKQ`; a loco that is gone,
one whose turn it is not, and the last packet of its list. -/
theorem witness_OperationsLoop_start :
    NextIs (move .sched (schedIn .idle 0x0100)) .sched [] ∧ (schedIn .idle 0x0100).arbState = modeValue .dccOperations ∧
    (schedIn .idle 0x0200).arbState = modeValue .dccService ∧ (schedIn .idle 0x0300).arbState ≠ modeValue .dccOperations ∧
    (schedIn .idle 0x0300).arbState ≠ modeValue .dccService ∧ (operating .opsStart).sched.phase = .opsStart ∧
    (schedIn .opsStart 0x0100).locos = [] ∧ locoFirst (operating .opsStart).locos = some 3 ∧
    Config.params.backCap ≤ 2 * (Config.params.backCap - (operating .opsStart).backq.length) ∧
    locoGet 5 (operating .opsLoco).locos = none ∧ (3 : Nat) % ({ loco with priority := 2 } : Loco).priority ≠ 0 ∧
    (3 : Nat) % ({ loco with priority := 3 } : Loco).priority = 0 := by
  refine ⟨⟨rfl, rfl, rfl⟩, by decide, by decide, by decide, by decide, rfl, rfl, by decide, ?_, by decide, by decide, by decide⟩
  have : (operating .opsStart).backq.length = 0 := rfl
  omega

theorem witness_OperationsLoop_last :
    ∃ p, (locoPackets Config.params)[(locoPackets Config.params).length - 1]? = some p ∧
      (locoPackets Config.params).length - 1 + 1 = (locoPackets Config.params).length := by
  have h : 0 < (locoPackets Config.params).length := by simp [locoPackets]
  exact ⟨_, List.getElem?_eq_getElem (Nat.sub_lt h Nat.one_pos), Nat.succ_pred_eq_of_pos h⟩

/-- A service request, an unsent and a sent POM request; the copies of one before and at `POM_REPEAT`, with space and without. -/
theorem witness_OperationsLoop_requests :
    (operating .opsSvc).cvsvc = [] ∧ ({ operating .opsSvc with cvsvc := [⟨.read, 0, 0⟩] } : State).cvsvc ≠ [] ∧
    ({ pomSent with sent := false } : PomReq).sent = false ∧ pomSent.sent = true ∧ (operating .opsPom).sched.r < Config.params.pomRepeat ∧
    (operating .opsPom).frontq.length < Config.params.frontCap ∧
    Config.params.frontCap ≤ (List.replicate Config.params.frontCap ({ bytes := [] } : Packet)).length ∧
    Config.params.pomRepeat ≤ ({ (operating .opsPom).sched with r := Config.params.pomRepeat } : SchedRegs).r :=
  ⟨rfl, by simp, rfl, rfl, Nat.lt_of_lt_of_le (by decide) params_legal.pomRepeat,
    Nat.lt_of_lt_of_le (by decide) params_legal.frontCap, by simp, Nat.le_refl _⟩

/-- A pass end at `MAXP` and before it, an expired POM request, and one that is still due. -/
theorem witness_OperationsLoop_pass :
    (Config.params.maxPriority ≤
        ({ operating .opsPassEnd with priorityCount := Config.params.maxPriority } : State).priorityCount + 1) ∧
    (({ operating .opsPassEnd with priorityCount := 0 } : State).priorityCount + 1 < Config.params.maxPriority + 1) ∧
    pomSent.deadline ≤ 500000 ∧ (operating .opsBidi).now < pomSent.deadline :=
  ⟨Nat.le_succ _, Nat.succ_lt_succ (Nat.lt_of_lt_of_le (by decide) minPriority_le_maxPriority), by decide, by decide⟩

/-- The operations loop after a short circuit, the service loop after a suspend, and a switch that lost. -/
theorem witness_AbandonRule :
    NextIs (move .sched (schedIn .opsLoco 0x0004)) .sched [] ∧ (schedIn .opsLoco 0x0004).arbState ≠ modeValue .dccOperations ∧
    NextIs (move .sched (schedIn .attWait 0x0002)) .sched [] ∧ (schedIn .attWait 0x0002).arbState ≠ modeValue .dccService ∧
    (schedIn .swWaitSvc 0x0300).arbState ≠ 0x0002 ∧ (schedIn .swWaitSvc 0x0300).arbState ≠ 0x0001 ∧
    (schedIn .opsLoco 0x0004).arbState = 0x0004 :=
  ⟨⟨rfl, rfl, rfl⟩, by decide, ⟨rfl, rfl, rfl⟩, by decide, by decide, by decide, rfl⟩

/-- A read of CV 1. -/
def svcRead : SvcReq :=
  { op := .read, cvi := 0, data := 0 }

/-- SCHED's move in a phase of the service loop, with a request. -/
def serving (p : SchedPhase) (alg : Option SvcAlg) (v i : Nat) (ack : Option Bool) : State :=
  move .sched
    { schedIn p 0x0200 with
      act := written, cvsvc := [svcRead], ackbuf := ack
      sched :=
        { SchedRegs.reset with phase := p, req := some svcRead, alg := alg, v := v, i := i, attPkt := some [0x74, 0x00, 0x00, 0x74] } }

theorem witness_ServiceLoop :
    NextIs (move .sched (schedIn .swToSvc 0x0100)) .sched [] ∧ (schedIn .swToSvc 0x0100).sched.phase = .swToSvc ∧
    (schedIn .swWaitSvc 0x0001).arbState = 0x0001 ∧ (schedIn .swToOps 0x0200).arbState = 0x0200 ∧
    (schedIn .svcNext 0x0200).cvsvc = [] ∧ (serving .svcNext none 0 0 none).cvsvc = [svcRead] ∧
    (serving .svcRun none 0 0 none).sched.req = some svcRead ∧ written.programmingType = some 1 ∧
    (serving .attProg none 0 0 none).act.programPacketCount = some 2 ∧
    (serving .attProg none 0 0 none).act.continueResetPacketCount = some 1 ∧
    (serving .attProg none 0 0 none).sched.r < (2 : Byte).toNat ∧ (serving .attReset none 0 0 none).sched.r < (1 : Byte).toNat :=
  ⟨⟨rfl, rfl, rfl⟩, rfl, rfl, rfl, rfl, rfl, rfl, rfl, rfl, rfl, by decide, by decide⟩

/-- The driver before and after its init, and startup packets to send and all sent. -/
theorem witness_ServiceLoop_entry :
    NextIs (move .sched (schedIn .svcEntry 0x0200)) .sched [] ∧ (dccIn .dCheck .dccService 0x0200).dcc.mode = some .dccService ∧
    (dccIn .dCheck .dccService 0x0200).dcc.phase ≠ .dIdle ∧ (dccIn .dCheck .dccService 0x0200).dcc.phase ≠ .dInit ∧
    (schedIn .svcEntry 0x0200).dcc.mode ≠ some .dccService ∧ (dccIn .dInit .dccService 0x0200).dcc.phase = .dInit ∧
    (serving .svcStartReset none 0 0 none).act.startupResetPacketCount = some 1 ∧
    (serving .svcStartReset none 0 0 none).sched.r < (1 : Byte).toNat ∧ (0 : Byte).toNat ≤ (serving .svcStartReset none 0 0 none).sched.r ∧
    Config.params.backCap ≤ (List.replicate Config.params.backCap ({ bytes := [] } : Packet)).length :=
  ⟨⟨rfl, rfl, rfl⟩, rfl, by decide, by decide, by decide, rfl, rfl, by decide, by decide, by simp⟩

theorem witness_ServiceLoop_room : (serving .attProg none 0 0 none).backq.length < Config.params.backCap :=
  Nat.lt_of_lt_of_le (by decide) params_legal.backCap.1

/-- An ack, the timeout without one, candidates 254 and 255, bits 6 and 7, and the two types of a bit read. -/
theorem witness_ServiceAnswers :
    NextIs (serving .attWait (some .byte) 254 0 (some true)) .sched [] ∧
    (serving .attWait (some .byte) 254 0 (some true)).arbState = modeValue .dccService ∧
    (serving .attWait (some .byte) 254 0 (some true)).sched.phase = .attWait ∧
    (serving .attWait (some .byte) 254 0 (some true)).sched.req = some svcRead ∧
    (serving .attWait (some .byte) 254 0 (some true)).cvsvc = svcRead :: [] ∧
    (serving .attWait (some .byte) 254 0 (some true)).sched.alg = some .byte ∧
    (serving .attWait (some .byte) 254 0 (some true)).ackbuf = some true ∧
    (serving .attWait (some .byte) 255 0 none).ackbuf = none ∧
    (serving .attWait (some .byte) 255 0 none).sched.waitDeadline ≤ (serving .attWait (some .byte) 255 0 none).now ∧
    (serving .attWait (some .byte) 254 0 none).sched.v < 255 ∧ (serving .attWait (some .byte) 255 0 none).sched.v = 255 ∧
    (serving .attWait (some .bit) 0 6 none).sched.i < 7 ∧ (serving .attWait (some .bit) 0 7 none).sched.i = 7 ∧
    ({ written with programmingType := some 2 } : Settings).programmingType = some 2 ∧
    ({ written with programmingType := some 3 } : Settings).programmingType = some 3 :=
  ⟨⟨rfl, rfl, rfl⟩, by decide, rfl, rfl, rfl, rfl, rfl, rfl, Nat.le_refl _, by decide, rfl, by decide, rfl, rfl, rfl⟩

/-- R503, R504 (a): a fault leaves its class in `FATAL`. -/
theorem test_fatal_code :
    fatalCode State.reset = none ∧
    fatalCode (raiseFault .uninitSetting .sched (.sched .opsBidi) State.reset) = some 2 := by decide

theorem witness_ResetAndFatal :
    ({ State.reset with fatal := some { cls := .hwFail, agent := .dccdrv, step := .dccdrv .dInit } } : State).fatal =
      some { cls := .hwFail, agent := .dccdrv, step := .dccdrv .dInit } := rfl

end Sys2Proof.Tests
end

section
/-! The held moves of the model (R9, R200, R506, log 2): commands that wait, `TIME`, and the agents at the normal end of a run (R630). -/

namespace Sys2Proof.Machine

/-! ### Commands that wait (R200, R201, R205) -/

/-- DCCDRV owns the two DCC modes (R111). -/
theorem driverOf_eq_dcc {m : Mode} : driverOf m = .dcc ↔ m = .dccOperations ∨ m = .dccService := by
  cases m <;> decide

/-- What keeps `ACQUIRE` waiting in `Suspended` (R201 (b)). -/
theorem acquireReady_eq_false {m : Mode} {s : State} :
    acquireReady m s = false ↔
      driverQuiet s (driverOf m) = false ∨ ((m = .dccOperations ∨ m = .dccService) ∧ schedWaits s = false) := by
  rw [← driverOf_eq_dcc]
  simp only [acquireReady, Bool.and_eq_false_iff, Bool.or_eq_false_iff, bne_eq_false_iff_eq]

/-- `ACQUIRE` is held in `Suspended` while its enabling condition fails (R201 (b)). -/
theorem execAcquire_held {mode : BitVec 8} {m : Mode} {s : State} (hm : Mode.ofId mode = some m)
    (hs : s.arbState = stSuspended) (hr : acquireReady m s = false) : execAcquire mode s = .next s := by
  simp [execAcquire, hm, hs, hr]

/-- `POWER_ON` is held until every driver is quiet and SCHED waits (R205 (a)). -/
theorem execPowerOn_held {s : State} (hs : s.arbState = stShort ∨ s.arbState = stSuspended)
    (hw : allQuiet s = false ∨ schedWaits s = false) : execPowerOn s = .next s := by
  have hready : (allQuiet s && schedWaits s) = false := Bool.and_eq_false_iff.mpr hw
  simp [execPowerOn, hs, hready]

/-! ### A move that runs no instruction -/

/-- The step of a move that runs no instruction ends where the move does. -/
theorem step_of_moveStep {s t : State} {m : Move} {rest : List Move} (h : NextIs s m rest)
    (hm : moveStep Config.params m (took rest s) = .run [] t) : step s = .next t := by
  rw [step_nextIs h, hm]
  exact runInstrs_nil t

/-! ### TIME (R9) -/

/-- TIME is held while an urgent step is enabled. -/
theorem timeMove_held {P : Params} {s : State} (h : urgentDue P s = true) : timeMove P s = .run [] s := by
  simp [timeMove, h]

/-- With no urgent step TIME moves `now`, within its 64 bits (R46). -/
theorem timeMove_advances {P : Params} {s : State} (h : urgentDue P s = false) (hn : s.now + 1 < 2 ^ 64) :
    timeMove P s = .run [] { s with now := s.now + 1, polled := false } := by
  simp only [timeMove, h, Bool.false_eq_true, if_false, if_pos hn]

/-! ### Agents with nothing to do -/

/-- HOST is held in `H_IDLE` while its port is empty (R231). -/
theorem hostStep_held {P : Params} {s : State} (hp : s.host.phase = .hIdle) (hc : s.hostPort.cmds = []) :
    hostStep P s = .run [] s := by
  simp [hostStep, hp, hostIntake, hc, headCommand]

/-- SCHED is held in `IDLE` while `STATE` is no DCC mode (R254). -/
theorem schedStep_held {P : Params} {s : State} (hp : s.sched.phase = .idle) (ho : s.arbState ≠ modeValue .dccOperations)
    (hv : s.arbState ≠ modeValue .dccService) : schedStep P s = .run [] s := by
  simp [schedStep, schedGuard, schedAct, schedIdle, hp, ho, hv]

/-- CUTOUT is held while no alarm is set (R360). -/
theorem cutoutStep_held {P : Params} {s : State} (hp : s.cutout.phase = .cOff) : cutoutStep P s = s := by
  simp [cutoutStep, cutoutDue, hp]

/-- DCCDRV is held while it is idle and not resumed (R213). -/
theorem dccMove_held {P : Params} {hwOk : Bool} {s : State} (hq : driverQuiet s .dcc = true) :
    dccMove P hwOk s = .run [] s := by
  obtain ⟨hp, hr⟩ : s.dcc.phase = .dIdle ∧ s.dcc.resume = false := by simpa [driverQuiet] using hq
  simp [dccMove, dccTxDue, dccStep, hp, hr]

/-- DECUPDRV is held while it is idle and not resumed (R213). -/
theorem decupMove_held {P : Params} {hwOk : Bool} {s : State} (hq : driverQuiet s .decup = true) :
    decupMove P hwOk s = s := by
  obtain ⟨hp, hr⟩ : s.decup.phase = .uIdle ∧ s.decup.resume = false := by simpa [driverQuiet] using hq
  simp [decupMove, decupAct, hp, hr]

/-- MDUDRV is held while it is idle and not resumed (R213). -/
theorem mduMove_held {P : Params} {hwOk : Bool} {s : State} (hq : driverQuiet s .mdu = true) :
    mduMove P hwOk s = s := by
  obtain ⟨hp, hr⟩ : s.mdu.phase = .mIdle ∧ s.mdu.resume = false := by simpa [driverQuiet] using hq
  simp [mduMove, mduAct, hp, hr]

/-- No reply is taken from an empty DECUP reply queue (R415). -/
theorem replyDecupStep_held {s : State} (h : s.decupReply = []) : replyDecupStep s = s := by
  have hdrop : s.decupReply.drop 1 = s.decupReply := by simp [h]
  rw [replyDecupStep, hdrop]

/-- No reply is taken from an empty MDU reply queue (R442). -/
theorem replyMduStep_held {s : State} (h : s.mduReply = []) : replyMduStep s = s := by
  have hdrop : s.mduReply.drop 1 = s.mduReply := by simp [h]
  rw [replyMduStep, hdrop]

/-! ### The normal end (R630) -/

/-- Every driver is quiet where all are. -/
theorem driverQuiet_of_allQuiet {s : State} (h : allQuiet s = true) (d : Driver) : driverQuiet s d = true := by
  obtain ⟨⟨hdcc, hdecup⟩, hmdu⟩ :
      (driverQuiet s .dcc = true ∧ driverQuiet s .decup = true) ∧ driverQuiet s .mdu = true := by
    simpa only [allQuiet, Bool.and_eq_true] using h
  cases d
  case dcc => exact hdcc
  case decup => exact hdecup
  case mdu => exact hmdu
  case ext => rfl

/-- At a normal end `STATE` holds no mode. -/
theorem NormalEnd.arbState_ne_modeValue {s : State} (h : NormalEnd s) (m : Mode) : s.arbState ≠ modeValue m := by
  rcases h.state with hs | hs <;> rw [hs]
  · exact (modeValue_ne_suspended m).symm
  · exact (modeValue_ne_short m).symm

/-- The agenda is no part of what makes a normal end. -/
theorem NormalEnd.took {s : State} (h : NormalEnd s) (rest : List Move) : NormalEnd (took rest s) :=
  ⟨h.fatal, h.state, h.drivers, h.sched, h.host, h.port, h.cutout, h.svcack, h.decupReply, h.mduReply⟩

/-- At a normal end the agents other than TIME, and the moves that take a reply, are held. -/
theorem NormalEnd.moveStep_held {P : Params} {s : State} (h : NormalEnd s) {m : Move} {ok : Bool}
    (hm : m ∈ [.host, .sched, .cutout, .dccdrv ok, .decupdrv ok, .mdudrv ok, .replyDecup, .replyMdu]) :
    moveStep P m s = .run [] s := by
  have hquiet := driverQuiet_of_allQuiet h.drivers
  simp only [List.mem_cons, List.not_mem_nil, or_false] at hm
  rcases hm with rfl | rfl | rfl | rfl | rfl | rfl | rfl | rfl
  · exact hostStep_held h.host h.port
  · exact schedStep_held h.sched (h.arbState_ne_modeValue .dccOperations) (h.arbState_ne_modeValue .dccService)
  · exact congrArg (Advance.run []) (cutoutStep_held h.cutout)
  · exact dccMove_held (hquiet .dcc)
  · exact congrArg (Advance.run []) (decupMove_held (hquiet .decup))
  · exact congrArg (Advance.run []) (mduMove_held (hquiet .mdu))
  · exact congrArg (Advance.run []) (replyDecupStep_held h.decupReply)
  · exact congrArg (Advance.run []) (replyMduStep_held h.mduReply)

/-- Settles O15: each clause is the held (or advancing) case of one command or move above. -/
theorem heldMovesChangeNothing : Obligations.HeldMovesChangeNothing := by
  refine ⟨?acquire, ?powerOn, ?time, ?normalEnd⟩
  case acquire =>
    intro mode m s hm hs hw
    exact execAcquire_held hm hs (acquireReady_eq_false.mpr hw)
  case powerOn =>
    intro s hs hw
    exact execPowerOn_held hs hw
  case time =>
    intro s rest hnext
    exact ⟨fun hu => step_of_moveStep hnext (timeMove_held hu),
      fun hu hn => step_of_moveStep hnext (timeMove_advances hu hn)⟩
  case normalEnd =>
    intro s m rest ok hend hnext hm
    exact step_of_moveStep hnext ((hend.took rest).moveStep_held hm)

end Sys2Proof.Machine
end

section
/-! The loco table as a map and its iteration (R23, R255, R258). -/

namespace Sys2Proof.Machine

/-! ### Reads after writes -/

/-- A read after a write (R23). -/
theorem locoGet_locoPut (t : List (Addr × Loco)) (a b : Addr) (l : Loco) :
    locoGet b (locoPut a l t) = if b = a then some l else locoGet b t := by
  induction t with
  | nil => rfl
  | cons e t ih =>
    obtain ⟨c, r⟩ := e
    by_cases hac : a = c
    · subst hac
      by_cases hba : b = a <;> simp [locoPut, locoGet, hba]
    · by_cases hlt : a.toNat < c.toNat
      · simp [locoPut, locoGet, hac, hlt]
      · by_cases hbc : b = c
        · subst hbc
          simp [locoPut, locoGet, hac, hlt, Ne.symm hac]
        · simp [locoPut, locoGet, hac, hlt, hbc, ih]

/-- A read after an erase (R23, R240). -/
theorem locoGet_locoErase (t : List (Addr × Loco)) (a b : Addr) :
    locoGet b (locoErase a t) = if b = a then none else locoGet b t := by
  induction t with
  | nil => simp [locoErase, locoGet]
  | cons e t ih =>
    obtain ⟨c, r⟩ := e
    unfold locoErase at ih ⊢
    by_cases hca : c = a
    · subst hca
      by_cases hbc : b = c
      · simpa [hbc] using ih
      · simpa [locoGet, hbc] using ih
    · by_cases hbc : b = c
      · subst hbc
        simp [locoGet, hca]
      · simpa [locoGet, hca, hbc] using ih

/-! ### Entries and reads -/

/-- What an address reads as is an entry of the table. -/
theorem mem_of_locoGet {t : List (Addr × Loco)} {a : Addr} {l : Loco} (h : locoGet a t = some l) : (a, l) ∈ t := by
  induction t with
  | nil => cases h
  | cons e t ih =>
    obtain ⟨b, r⟩ := e
    by_cases hab : a = b
    · subst hab
      obtain rfl : r = l := by simpa [locoGet] using h
      exact List.mem_cons_self
    · exact List.mem_cons_of_mem _ (ih (by simpa [locoGet, hab] using h))

/-- In a canonical table every entry is what its address reads as (R23). -/
theorem locoGet_of_mem {t : List (Addr × Loco)} (hwf : locosWf t) {e : Addr × Loco} (he : e ∈ t) :
    locoGet e.1 t = some e.2 := by
  induction t with
  | nil => cases he
  | cons x t ih =>
    obtain ⟨hx, ht⟩ := List.pairwise_cons.mp hwf
    rcases List.mem_cons.mp he with rfl | he
    · simp [locoGet]
    · have hne : e.1 ≠ x.1 := fun h => absurd (hx e he) (by simp [h])
      simpa [locoGet, hne] using ih ht he

/-- In a canonical table an address has a record exactly where it is the address of an entry. -/
theorem locoGet_isSome_iff {t : List (Addr × Loco)} (hwf : locosWf t) (a : Addr) :
    (locoGet a t).isSome = true ↔ ∃ e ∈ t, e.1 = a := by
  constructor
  · intro h
    obtain ⟨l, hl⟩ := Option.isSome_iff_exists.mp h
    exact ⟨(a, l), mem_of_locoGet hl, rfl⟩
  · rintro ⟨e, he, rfl⟩
    rw [locoGet_of_mem hwf he]; rfl

/-! ### Ascending iteration -/

/-- The start of the iteration is the address of the first entry (R255). -/
theorem locoFirst_eq_some {t : List (Addr × Loco)} {a : Addr} :
    locoFirst t = some a ↔ ∃ l rest, t = (a, l) :: rest := by
  cases t with
  | nil => simp [locoFirst]
  | cons e t => simp [locoFirst, Prod.ext_iff]

/-- Only an empty table has no start (R255). -/
theorem locoFirst_eq_none {t : List (Addr × Loco)} : locoFirst t = none ↔ t = [] := by
  cases t <;> simp [locoFirst]

/-- The iteration ends where no entry has a greater address (R258). -/
theorem locoAfter_eq_none {t : List (Addr × Loco)} {a : Addr} :
    locoAfter a t = none ↔ ∀ e ∈ t, e.1.toNat ≤ a.toNat := by
  simp [locoAfter, List.find?_eq_none]

/-- The iteration goes on to the first entry with a greater address (R258). -/
theorem locoAfter_eq_some {t : List (Addr × Loco)} {a b : Addr} :
    locoAfter a t = some b ↔
      ∃ below l above, t = below ++ (b, l) :: above ∧ a.toNat < b.toNat ∧ ∀ e ∈ below, e.1.toNat ≤ a.toNat := by
  simp only [locoAfter, Option.map_eq_some_iff, List.find?_eq_some_iff_append]
  constructor
  · rintro ⟨⟨b, l⟩, ⟨hb, below, above, rfl, hbelow⟩, rfl⟩
    exact ⟨below, l, above, rfl, by simpa using hb, by simpa using hbelow⟩
  · rintro ⟨below, l, above, rfl, hb, hbelow⟩
    exact ⟨(b, l), ⟨by simpa using hb, below, above, rfl, by simpa using hbelow⟩, rfl⟩

/-- The start of a canonical table is its least address. -/
theorem locoFirst_least {t : List (Addr × Loco)} (hwf : locosWf t) {a : Addr} (h : locoFirst t = some a) :
    ∀ e ∈ t, a.toNat ≤ e.1.toNat := by
  obtain ⟨l, rest, rfl⟩ := locoFirst_eq_some.mp h
  obtain ⟨hfirst, -⟩ := List.pairwise_cons.mp hwf
  intro e he
  rcases List.mem_cons.mp he with rfl | he
  · exact Nat.le_refl _
  · exact Nat.le_of_lt (hfirst e he)

/-- In a canonical table the iteration goes on to the least greater address. -/
theorem locoAfter_least {t : List (Addr × Loco)} (hwf : locosWf t) {a b : Addr} (h : locoAfter a t = some b) :
    ∀ e ∈ t, a.toNat < e.1.toNat → b.toNat ≤ e.1.toNat := by
  obtain ⟨below, l, above, rfl, -, hbelow⟩ := locoAfter_eq_some.mp h
  obtain ⟨-, hrest, -⟩ := List.pairwise_append.mp hwf
  obtain ⟨habove, -⟩ := List.pairwise_cons.mp hrest
  intro e he hae
  rcases List.mem_append.mp he with he | he
  · exact absurd (hbelow e he) (by omega)
  · rcases List.mem_cons.mp he with rfl | he
    · exact Nat.le_refl _
    · exact Nat.le_of_lt (habove e he)

/-- Settles O26: the reads by induction on the table, the iteration by where its first hit stands in a rising list. -/
theorem locoTableLaws : Obligations.LocoTableLaws := by
  refine ⟨fun t a b l => ⟨locoGet_locoPut t a b l, locoGet_locoErase t a b⟩, fun t hwf => ?_⟩
  simp only [locoGet_isSome_iff hwf]
  refine ⟨fun e he => locoGet_of_mem hwf he, locoFirst_eq_none, ?last, ?first, ?next⟩
  case last =>
    rintro a ha _ ⟨e, he, rfl⟩
    exact locoAfter_eq_none.mp ha e he
  case first =>
    intro a ha
    obtain ⟨l, rest, ht⟩ := locoFirst_eq_some.mp ha
    refine ⟨⟨(a, l), by simp [ht], rfl⟩, ?_⟩
    rintro _ ⟨e, he, rfl⟩
    exact locoFirst_least hwf ha e he
  case next =>
    intro a b hb
    obtain ⟨below, l, above, ht, hab, -⟩ := locoAfter_eq_some.mp hb
    refine ⟨⟨(b, l), by simp [ht], rfl⟩, hab, ?_⟩
    rintro _ ⟨e, he, rfl⟩ hae
    exact locoAfter_least hwf hb e he hae

end Sys2Proof.Machine
end

section
/-! What a step can write of the data the invariants of R23 to R46 speak of, part by part. The tables, queues and detectors are seen
through `parts`; every instruction and every move is a sequence of legal writes of one part each. -/

namespace Sys2Proof.Machine

/-! ### The parts of the data and their writes -/

/-- The parts of the state that the invariants of the loco table, the packets, the queues and the detectors speak of. -/
structure Parts where
  locos : List (Addr × Loco)
  priorityCount : Nat
  frontq : List Packet
  backq : List Packet
  feedbackq : List Feedback
  cvsvc : List SvcReq
  cvpom : List PomReq
  decupInq : List (List Byte)
  mduInq : List (List Byte)
  decupReply : List Byte
  mduReply : List Byte
  uartFifo : List Byte
  pending : Option Pending
  current : Option Packet
  attempt : Option (List Byte)
  edges : Nat
  raw : Nat
  win : List (BitVec 16)
  sum : Nat
  zeros : Nat

/-- The parts of a state. -/
def parts (s : State) : Parts where
  locos := s.locos
  priorityCount := s.priorityCount
  frontq := s.frontq
  backq := s.backq
  feedbackq := s.feedbackq
  cvsvc := s.cvsvc
  cvpom := s.cvpom
  decupInq := s.decupInq
  mduInq := s.mduInq
  decupReply := s.decupReply
  mduReply := s.mduReply
  uartFifo := s.uartFifo
  pending := s.host.pend
  current := s.dcc.cur
  attempt := s.sched.attPkt
  edges := s.decup.edges
  raw := s.decup.raw
  win := s.svcack.win
  sum := s.svcack.sum
  zeros := s.svcack.zeros

/-- A queue after a write: no longer than it was, or within its capacity. -/
abbrev Fits {α : Type} (cap : Nat) (old new : List α) : Prop :=
  new.length ≤ max old.length cap

theorem Fits.of_sublist {α : Type} {cap : Nat} {old new : List α} (h : new.Sublist old) : Fits cap old new :=
  le_max_of_le_left h.length_le

theorem Fits.push {α : Type} {cap : Nat} {old : List α} (x : α) (h : old.length < cap) : Fits cap old (old ++ [x]) :=
  le_max_of_le_right (by simpa using h)

/-- One write: `t` has the parts of `s` but for one, whose new value is legal where the parts of `s` are. What is not in `parts` may
change with it. -/
inductive Write (s t : State) : Prop where
  | other (h : parts t = parts s)
  | locos (table : List (Addr × Loco))
      (legal : LocoInv Config.params s → LocoInv Config.params { s with locos := table })
      (h : parts t = { parts s with locos := table })
  | priorityCount (n : Nat) (low : minPriority ≤ n) (high : n ≤ Config.params.maxPriority)
      (h : parts t = { parts s with priorityCount := n })
  | front (q : List Packet) (fits : Fits Config.params.frontCap s.frontq q)
      (legal : PacketInv s → ∀ p ∈ q, packetOk p.bytes = true) (h : parts t = { parts s with frontq := q })
  | back (q : List Packet) (fits : Fits Config.params.backCap s.backq q)
      (legal : PacketInv s → ∀ p ∈ q, packetOk p.bytes = true) (h : parts t = { parts s with backq := q })
  | pending (x : Option Pending)
      (legal : PacketInv s → ∀ p, x = some p → dccTarget p.target = true → packetOk p.bytes = true)
      (h : parts t = { parts s with pending := x })
  | current (x : Option Packet) (legal : PacketInv s → ∀ p, x = some p → packetOk p.bytes = true)
      (h : parts t = { parts s with current := x })
  | attempt (x : Option (List Byte)) (legal : PacketInv s → ∀ bs, x = some bs → packetOk bs = true)
      (h : parts t = { parts s with attempt := x })
  | feedback (q : List Feedback) (fits : Fits Config.params.feedbackCap s.feedbackq q)
      (h : parts t = { parts s with feedbackq := q })
  | cvsvc (q : List SvcReq) (fits : Fits Config.params.cvDequeCap s.cvsvc q) (h : parts t = { parts s with cvsvc := q })
  | cvpom (q : List PomReq) (fits : Fits Config.params.cvDequeCap s.cvpom q) (h : parts t = { parts s with cvpom := q })
  | decupIn (q : List (List Byte)) (fits : Fits Config.params.decupInCap s.decupInq q)
      (h : parts t = { parts s with decupInq := q })
  | mduIn (q : List (List Byte)) (fits : Fits Config.params.mduInCap s.mduInq q) (h : parts t = { parts s with mduInq := q })
  | uart (q : List Byte) (fits : Fits Config.params.uartFifoSize s.uartFifo q) (h : parts t = { parts s with uartFifo := q })
  | decupReply (q : List Byte) (fits : Fits Config.params.replyCap s.decupReply q)
      (legal : CodeInv s → ∀ c ∈ q, c.toNat ≤ 2) (h : parts t = { parts s with decupReply := q })
  | mduReply (q : List Byte) (fits : Fits Config.params.replyCap s.mduReply q)
      (legal : CodeInv s → ∀ c ∈ q, c.toNat ≤ 2) (h : parts t = { parts s with mduReply := q })
  | edges (n : Nat) (bound : n ≤ 255) (h : parts t = { parts s with edges := n })
  | raw (n : Nat) (bound : n ≤ 2) (h : parts t = { parts s with raw := n })
  | window (w : List (BitVec 16)) (bound : w.length ≤ ackWindow)
      (h : parts t = { parts s with win := w, sum := windowSum w, zeros := windowZeros w })

/-- A sequence of writes. -/
abbrev Writes : State → State → Prop :=
  Relation.ReflTransGen Write

/-- A change outside `parts`. -/
theorem Writes.other {s t : State} (h : parts t = parts s) : Writes s t :=
  .single (.other h)

/-- A change outside `parts` before writes. -/
theorem Writes.otherBefore {s u t : State} (h : Writes u t) (hu : parts u = parts s) : Writes s t :=
  .head (.other hu) h

/-- A change outside `parts` after writes. -/
theorem Writes.otherAfter {s u t : State} (h : Writes s u) (ht : parts t = parts u) : Writes s t :=
  .tail h (.other ht)

/-- An invariant that each write keeps is kept by a sequence of them. -/
theorem Writes.keep {Inv : State → Prop} (hwrite : ∀ {s t}, Write s t → Inv s → Inv t) {s t : State} (h : Writes s t)
    (hs : Inv s) : Inv t := by
  induction h with
  | refl => exact hs
  | tail _ hw ih => exact hwrite hw ih

/-! ### Each invariant is kept by each write -/

theorem locoInv_iff {P : Params} {s : State} :
    LocoInv P s ↔
      locosWf (parts s).locos ∧ (parts s).locos.length ≤ P.locoMax ∧ (∀ e ∈ (parts s).locos, locoEntryOk P e = true) ∧
        minPriority ≤ (parts s).priorityCount ∧ (parts s).priorityCount ≤ P.maxPriority :=
  ⟨fun h => ⟨h.canonical, h.capacity, h.entries, h.count⟩, fun ⟨h1, h2, h3, h4⟩ => ⟨h1, h2, h3, h4⟩⟩

theorem LocoInv.write {s t : State} (hw : Write s t) (hs : LocoInv Config.params s) : LocoInv Config.params t := by
  cases hw
  case locos table legal h => rw [locoInv_iff, h]; exact locoInv_iff.mp (legal hs)
  case priorityCount n low high h => rw [locoInv_iff, h]; exact ⟨hs.canonical, hs.capacity, hs.entries, low, high⟩
  all_goals
    rename_i h
    rw [locoInv_iff, h]
    exact locoInv_iff.mp hs

theorem packetInv_iff {s : State} :
    PacketInv s ↔
      (∀ p ∈ (parts s).frontq, packetOk p.bytes = true) ∧ (∀ p ∈ (parts s).backq, packetOk p.bytes = true) ∧
        (∀ p, (parts s).pending = some p → dccTarget p.target = true → packetOk p.bytes = true) ∧
        (∀ p, (parts s).current = some p → packetOk p.bytes = true) ∧
        ∀ bs, (parts s).attempt = some bs → packetOk bs = true :=
  ⟨fun h => ⟨h.front, h.back, h.pending, h.current, h.attempt⟩, fun ⟨h1, h2, h3, h4, h5⟩ => ⟨h1, h2, h3, h4, h5⟩⟩

theorem PacketInv.write {s t : State} (hw : Write s t) (hs : PacketInv s) : PacketInv t := by
  cases hw
  case front q fits legal h =>
    rw [packetInv_iff, h]; exact ⟨legal hs, hs.back, hs.pending, hs.current, hs.attempt⟩
  case back q fits legal h =>
    rw [packetInv_iff, h]; exact ⟨hs.front, legal hs, hs.pending, hs.current, hs.attempt⟩
  case pending x legal h =>
    rw [packetInv_iff, h]; exact ⟨hs.front, hs.back, legal hs, hs.current, hs.attempt⟩
  case current x legal h =>
    rw [packetInv_iff, h]; exact ⟨hs.front, hs.back, hs.pending, legal hs, hs.attempt⟩
  case attempt x legal h =>
    rw [packetInv_iff, h]; exact ⟨hs.front, hs.back, hs.pending, hs.current, legal hs⟩
  all_goals
    rename_i h
    rw [packetInv_iff, h]
    exact packetInv_iff.mp hs

theorem queueInv_iff {P : Params} {s : State} :
    QueueInv P s ↔
      (parts s).frontq.length ≤ P.frontCap ∧ (parts s).backq.length ≤ P.backCap ∧
        (parts s).feedbackq.length ≤ P.feedbackCap ∧ (parts s).cvsvc.length ≤ P.cvDequeCap ∧
        (parts s).cvpom.length ≤ P.cvDequeCap ∧ (parts s).decupInq.length ≤ P.decupInCap ∧
        (parts s).mduInq.length ≤ P.mduInCap ∧ (parts s).decupReply.length ≤ P.replyCap ∧
        (parts s).mduReply.length ≤ P.replyCap ∧ (parts s).uartFifo.length ≤ P.uartFifoSize :=
  ⟨fun ⟨h1, h2, h3, h4, h5, h6, h7, h8, h9, h10⟩ => ⟨h1, h2, h3, h4, h5, h6, h7, h8, h9, h10⟩,
    fun ⟨h1, h2, h3, h4, h5, h6, h7, h8, h9, h10⟩ => ⟨h1, h2, h3, h4, h5, h6, h7, h8, h9, h10⟩⟩

theorem QueueInv.write {s t : State} (hw : Write s t) (hs : QueueInv Config.params s) : QueueInv Config.params t := by
  obtain ⟨front, back, feedback, cvsvc, cvpom, decupIn, mduIn, decupReply, mduReply, uart⟩ := hs
  cases hw
  all_goals
    rename_i h
    rw [queueInv_iff, h]
    simp only [parts]
    omega

theorem codeInv_iff {s : State} :
    CodeInv s ↔
      (parts s).edges ≤ 255 ∧ (parts s).raw ≤ 2 ∧ (∀ c ∈ (parts s).decupReply, c.toNat ≤ 2) ∧
        ∀ c ∈ (parts s).mduReply, c.toNat ≤ 2 :=
  ⟨fun h => ⟨h.edges, h.raw, h.decupCodes, h.mduCodes⟩, fun ⟨h1, h2, h3, h4⟩ => ⟨h1, h2, h3, h4⟩⟩

theorem CodeInv.write {s t : State} (hw : Write s t) (hs : CodeInv s) : CodeInv t := by
  cases hw
  case edges n bound h => rw [codeInv_iff, h]; exact ⟨bound, hs.raw, hs.decupCodes, hs.mduCodes⟩
  case raw n bound h => rw [codeInv_iff, h]; exact ⟨hs.edges, bound, hs.decupCodes, hs.mduCodes⟩
  case decupReply q fits legal h => rw [codeInv_iff, h]; exact ⟨hs.edges, hs.raw, legal hs, hs.mduCodes⟩
  case mduReply q fits legal h => rw [codeInv_iff, h]; exact ⟨hs.edges, hs.raw, hs.decupCodes, legal hs⟩
  all_goals
    rename_i h
    rw [codeInv_iff, h]
    exact codeInv_iff.mp hs

theorem ackInv_iff {s : State} :
    AckInv s ↔
      (parts s).win.length ≤ ackWindow ∧ (parts s).sum = windowSum (parts s).win ∧
        (parts s).zeros = windowZeros (parts s).win :=
  ⟨fun h => ⟨h.window, h.sum, h.zeros⟩, fun ⟨h1, h2, h3⟩ => ⟨h1, h2, h3⟩⟩

theorem AckInv.write {s t : State} (hw : Write s t) (hs : AckInv s) : AckInv t := by
  cases hw
  case window w bound h => rw [ackInv_iff, h]; exact ⟨bound, rfl, rfl⟩
  all_goals
    rename_i h
    rw [ackInv_iff, h]
    exact ackInv_iff.mp hs

end Sys2Proof.Machine
end

section
/-! The writes of the shared operations and of the instructions. -/

namespace Sys2Proof.Machine

/-! ### Shared operations -/

/-- All that a response can do to the parts is to forget the packet that waits in HOST (R231). -/
theorem writes_respond (st : Byte) (v : BitVec 56) (s : State) : Writes s (respond st v s) :=
  .single (.pending (respond st v s).host.pend (fun hs p hp => hs.pending p (respond_pend hp)) (by simp [parts]))

theorem writes_leavePacket {t : Target} {bytes : List Byte} (s : State)
    (hb : dccTarget t = true → packetOk bytes = true) : Writes s (leavePacket t bytes s) :=
  .single (.pending (some { target := t, bytes := bytes, adm := s.arbState })
    (fun _ p hp ht => by cases hp; exact hb ht) rfl)

theorem writes_enterMode (m : Mode) (s : State) : Writes s (enterMode m s) :=
  .other (by rw [enterMode_eq]; rfl)

theorem writes_pushFront {e : Packet} {s t : State} (room : s.frontq.length < Config.params.frontCap)
    (he : PacketInv s → packetOk e.bytes = true) (h : parts t = { parts s with frontq := s.frontq ++ [e] }) : Writes s t :=
  .single (.front _ (.push e room)
    (fun hs p hp => (List.mem_append.mp hp).elim (hs.front p) fun hp => List.mem_singleton.mp hp ▸ he hs) h)

theorem writes_pushBack {e : Packet} {s t : State} (room : s.backq.length < Config.params.backCap)
    (he : PacketInv s → packetOk e.bytes = true) (h : parts t = { parts s with backq := s.backq ++ [e] }) : Writes s t :=
  .single (.back _ (.push e room)
    (fun hs p hp => (List.mem_append.mp hp).elim (hs.back p) fun hp => List.mem_singleton.mp hp ▸ he hs) h)

/-- Packets taken from `FRONTQ`. -/
theorem writes_fewerFront {q : List Packet} {s t : State} (hq : q.Sublist s.frontq)
    (h : parts t = { parts s with frontq := q }) : Writes s t :=
  .single (.front q (.of_sublist hq) (fun hs p hp => hs.front p (hq.subset hp)) h)

/-- Packets taken from `BACKQ`. -/
theorem writes_fewerBack {q : List Packet} {s t : State} (hq : q.Sublist s.backq)
    (h : parts t = { parts s with backq := q }) : Writes s t :=
  .single (.back q (.of_sublist hq) (fun hs p hp => hs.back p (hq.subset hp)) h)

/-- No attempt is under way. -/
theorem writes_noAttempt {s t : State} (h : parts t = { parts s with attempt := none }) : Writes s t :=
  .single (.attempt none (fun _ _ hbs => by cases hbs) h)

/-- No packet is being sent. -/
theorem writes_noCurrent {s t : State} (h : parts t = { parts s with current := none }) : Writes s t :=
  .single (.current none (fun _ _ hp => by cases hp) h)

/-- DCCDRV's teardown and idle-step cancel empty its queues one by one (R213, R358). -/
theorem writes_clearDccQueues (s : State) : Writes s (clearDccQueues s) :=
  calc
    Writes s { s with frontq := [] } := writes_fewerFront (List.nil_sublist _) rfl
    Writes _ { s with frontq := [], backq := [] } := writes_fewerBack (List.nil_sublist _) rfl
    Writes _ (clearDccQueues s) := .single (.feedback [] (.of_sublist (List.nil_sublist _)) rfl)

theorem writes_clearDecupQueues (s : State) : Writes s (clearDecupQueues s) :=
  calc
    Writes s { s with decupInq := [] } := .single (.decupIn [] (.of_sublist (List.nil_sublist _)) rfl)
    Writes _ (clearDecupQueues s) := .single (.decupReply [] (.of_sublist (List.nil_sublist _)) (by simp) rfl)

theorem writes_clearMduQueues (s : State) : Writes s (clearMduQueues s) :=
  calc
    Writes s { s with mduInq := [] } := .single (.mduIn [] (.of_sublist (List.nil_sublist _)) rfl)
    Writes _ (clearMduQueues s) := .single (.mduReply [] (.of_sublist (List.nil_sublist _)) (by simp) rfl)

/-! ### The loco table -/

theorem locoEntryOk_iff {P : Params} {a : Addr} {l : Loco} :
    locoEntryOk P (a, l) = true ↔
      addrLegal a = true ∧ speedLegal l.speedSteps l.rvvvvvvv = true ∧ minPriority ≤ l.priority ∧
        l.priority ≤ P.maxPriority ∧ l.rcSpeed.toNat ≤ 511 ∧ l.rcOptions.toNat ≤ 7 := by
  simp [locoEntryOk, and_assoc]

/-- A legal record may be written where the address has one or the table has room (R23, R230). -/
theorem LocoInv.put {P : Params} {a : Addr} {l : Loco} {s : State} (h : LocoInv P s) (room : locoRoom P a s)
    (hl : locoEntryOk P (a, l) = true) : LocoInv P { s with locos := locoPut a l s.locos } where
  canonical := locoPut_wf a l h.canonical
  capacity := by
    have hcap := h.capacity
    rw [length_locoPut a l s.locos h.canonical]
    rcases room with room | room
    · simpa [room] using hcap
    · split <;> omega
  entries e he := (mem_locoPut he).elim (fun heq => heq ▸ hl) (h.entries e)
  count := h.count

/-- Entries may be left out. -/
theorem LocoInv.sublist {P : Params} {table : List (Addr × Loco)} {s : State} (h : LocoInv P s)
    (ht : table.Sublist s.locos) : LocoInv P { s with locos := table } where
  canonical := List.Pairwise.sublist ht h.canonical
  capacity := ht.length_le.trans h.capacity
  entries e he := h.entries e (ht.subset he)
  count := h.count

/-- The fairness reset keeps every record legal (R259). -/
theorem LocoInv.resetPriorities {s : State} (h : LocoInv Config.params s) :
    LocoInv Config.params { s with locos := resetPriorities s.locos } where
  canonical := locoMap_wf (fun l => { l with priority := minPriority }) h.canonical
  capacity := by simpa [Machine.resetPriorities] using h.capacity
  entries := by
    intro e he
    obtain ⟨⟨a, l⟩, hmem, rfl⟩ := List.mem_map.mp he
    obtain ⟨haddr, hspeed, -, -, hrc⟩ := locoEntryOk_iff.mp (h.entries _ hmem)
    exact locoEntryOk_iff.mpr ⟨haddr, hspeed, Nat.le_refl _, minPriority_le_maxPriority, hrc⟩
  count := h.count

/-- A record is changed to one that is legal where the old one is. -/
theorem writes_setLoco {a : Addr} {old l : Loco} {s : State} (hold : locoGet a s.locos = some old)
    (hl : locoEntryOk Config.params (a, old) = true → locoEntryOk Config.params (a, l) = true) : Writes s (setLoco a l s) :=
  .single (.locos _ (fun hs => hs.put (.inl (by simp [hold])) (hl (hs.entries _ (mem_of_locoGet hold)))) rfl)

theorem writes_storeLoco {a : Addr} {old l : Loco} {s : State} (hold : locoGet a s.locos = some old)
    (hl : locoEntryOk Config.params (a, old) = true → locoEntryOk Config.params (a, l) = true) : Writes s (storeLoco a l s) :=
  (writes_setLoco hold hl).otherAfter rfl

/-- A created record is legal: the store gives legal records, and the defaults are (R24, R230). -/
theorem locoEntryOk_created {a : Addr} (ha : addrLegal a = true) (n : Nat) :
    locoEntryOk Config.params (a, locoCreated (Config.params.nvGet n a)) = true := by
  have hmax := minPriority_le_maxPriority
  rw [locoEntryOk_iff]
  cases hnv : Config.params.nvGet n a with
  | none => exact ⟨ha, by decide, Nat.le_refl _, hmax, by decide, by decide⟩
  | some r =>
    have hr : speedLegal r.speedSteps r.rvvvvvvv = true := params_legal.nvGet n a r hnv
    exact ⟨ha, hr, Nat.le_refl _, hmax, Nat.zero_le _, Nat.zero_le _⟩

/-- `get_or_create` at a legal address writes at most one legal record, the one it answers (R230). -/
theorem writes_getOrCreate {a : Addr} {l : Loco} {s u : State} (ha : addrLegal a = true)
    (h : getOrCreate Config.params a s = some (l, u)) :
    Writes s u ∧ locoGet a u.locos = some l ∧ u.cvpom = s.cvpom := by
  unfold getOrCreate at h
  split at h
  · rename_i hget
    cases h
    exact ⟨.refl, hget, rfl⟩
  · split at h
    · rename_i room
      cases h
      exact ⟨.single (.locos _ (fun hs => hs.put (.inr room) (locoEntryOk_created ha _)) rfl),
        by simp [locoGet_locoPut], rfl⟩
    · cases h

/-! ### Legal packets (R132, R301 to R306) -/

theorem packetOk_sealPacket {bs : List Byte} (h : 2 ≤ bs.length ∧ bs.length ≤ 5) : packetOk (sealPacket bs) = true := by
  simp only [packetOk, dccPayloadOk, dccMaxPacket, length_sealPacket, xorAll_sealPacket, Bool.and_eq_true, decide_eq_true_eq,
    beq_self_eq_true, and_true]
  omega

theorem length_groupBytes (f : BitVec 32) (g : Group) :
    1 ≤ (groupBytes f g).length ∧ (groupBytes f g).length ≤ 2 := by
  cases g <;> simp [groupBytes]

/-- A packet of an address and one to three bytes (R300, R301). -/
theorem packetOk_addressed {a : Addr} {bs : List Byte} (h : 1 ≤ bs.length ∧ bs.length ≤ 3) :
    packetOk (sealPacket (addrPrefix a ++ bs)) = true := by
  apply packetOk_sealPacket
  rw [List.length_append, length_addrPrefix]
  split <;> omega

theorem packetOk_speedPacket (a : Addr) (l : Loco) : packetOk (speedPacket a l) = true := by
  unfold speedPacket
  split <;> exact packetOk_addressed (by simp)

theorem packetOk_fgPacket (a : Addr) (l : Loco) (g : Group) : packetOk (fgPacket a l g) = true := by
  have := length_groupBytes l.f31_0 g
  exact packetOk_addressed (by omega)

theorem packetOk_buildPacket (a : Addr) (l : Loco) (p : LocoPacket) : packetOk (buildPacket a l p) = true := by
  cases p with
  | speed => exact packetOk_speedPacket a l
  | group g => exact packetOk_fgPacket a l g

theorem packetOk_pomPacket (e : PomReq) : packetOk (pomPacket e) = true := by
  unfold pomPacket
  cases e.op <;> simp only [List.append_assoc] <;> exact packetOk_addressed (by simp [cviBytes])

theorem packetOk_svcVerifyByte (k : Cvi) (d : Byte) : packetOk (svcVerifyByte k d) = true :=
  packetOk_sealPacket (by simp [cviBytes])

theorem packetOk_svcWriteByte (k : Cvi) (d : Byte) : packetOk (svcWriteByte k d) = true :=
  packetOk_sealPacket (by simp [cviBytes])

theorem packetOk_svcVerifyBit (k : Cvi) (v : Bool) (i : Nat) : packetOk (svcVerifyBit k v i) = true :=
  packetOk_sealPacket (by simp [cviBytes])

theorem packetOk_idlePacket : packetOk idlePacket = true := by decide

theorem packetOk_resetPacket : packetOk resetPacket = true := by decide

/-! ### Answers of instructions -/

/-- Every next state that an instruction answers is reached by writes. -/
def Answers (s : State) (r : Res) : Prop :=
  ∀ t, r = .next t → Writes s t

theorem Answers.next {s t : State} (h : Writes s t) : Answers s (.next t) := by
  rintro _ ⟨⟩
  exact h

theorem Answers.respond {s u : State} (h : Writes s u) (st : Byte) (v : BitVec 56) :
    Answers s (.next (respond st v u)) :=
  .next (h.trans (writes_respond st v u))

theorem Answers.answer {s u : State} (h : Writes s u) (st : Byte) : Answers s (answer st u) :=
  .respond h st 0

theorem Answers.answerState {s u : State} (h : Writes s u) (st : Byte) : Answers s (answerState st u) :=
  .respond h st _

theorem Answers.hostOnly {s : State} {k : Res} (h : Answers s k) : Answers s (hostOnly s k) := by
  unfold Machine.hostOnly
  split
  · exact h
  · exact .answer .refl _

theorem Answers.injectPacket {s u : State} {pkt : List Byte} (h : Writes s u) (hp : packetOk pkt = true) :
    Answers s (injectPacket pkt u) := by
  unfold Machine.injectPacket
  split
  · exact .next (h.trans (writes_leavePacket u fun _ => hp))
  · exact .answer h _

theorem Answers.sendRaw {operandOk admitted : Bool} {t : Target} {bytes : List Byte} (s : State)
    (hb : operandOk = true → dccTarget t = true → packetOk bytes = true) :
    Answers s (sendRaw operandOk admitted t bytes s) := by
  unfold Machine.sendRaw
  split
  · rename_i hok
    split
    · exact .next (writes_leavePacket s (hb hok))
    · exact .answer .refl _
  · exact .answer .refl _

/-! ### Arbitration commands -/

theorem answers_acquire (mode : BitVec 8) (s : State) : Answers s (execAcquire mode s) := by
  unfold execAcquire
  split
  · exact .answer .refl _
  · rename_i m _
    split
    · split
      · exact .answerState (writes_enterMode m s) _
      · exact .next .refl
    · exact .answerState .refl _

theorem answers_suspend (mode : BitVec 8) (s : State) : Answers s (execSuspend mode s) := by
  unfold execSuspend
  split
  · split
    · exact .answerState (.other (by rfl)) _
    · exact .answerState .refl _
  · split
    · exact .answer .refl _
    · split
      · rename_i hcas
        obtain ⟨-, rfl⟩ := cas_eq_some hcas
        exact .answerState (.other (by rfl)) _
      · exact .answerState .refl _

theorem answers_release (mode : BitVec 8) (s : State) : Answers s (execRelease mode s) := by
  unfold execRelease
  split
  · exact .answer .refl _
  · split
    · exact .answerState (.other (by rfl)) _
    · exact .answerState .refl _

theorem answers_short (s : State) : Answers s (execShort s) := by
  unfold execShort
  split
  · exact .answerState .refl _
  · exact .answerState (.other (by rfl)) _

theorem answers_powerOn (s : State) : Answers s (execPowerOn s) := by
  unfold execPowerOn
  split
  · split
    · exact .answerState (writes_enterMode _ s) _
    · exact .next .refl
  · split
    · exact .answerState .refl _
    · exact .answerState .refl _

/-! ### Loco commands -/

theorem answers_locoDrive (addr : Addr) (steps : BitVec 3) (rv : Byte) (s : State) :
    Answers s (execLocoDrive addr steps rv s) := by
  refine .hostOnly ?_
  split
  · rename_i hop
    obtain ⟨haddr, hspeed⟩ := Bool.and_eq_true_iff.mp hop
    split
    · exact .answer .refl _
    · rename_i l u hget
      obtain ⟨hu, hl, -⟩ := writes_getOrCreate haddr hget
      refine .injectPacket (hu.trans (writes_storeLoco hl fun hok => ?_)) (packetOk_speedPacket _ _)
      obtain ⟨ha, -, hrest⟩ := locoEntryOk_iff.mp hok
      exact locoEntryOk_iff.mpr ⟨ha, hspeed, hrest⟩
  · exact .answer .refl _

theorem answers_locoFunction (addr : Addr) (fn : BitVec 5) (on : Bool) (s : State) :
    Answers s (execLocoFunction addr fn on s) := by
  refine .hostOnly ?_
  split
  · rename_i haddr
    split
    · exact .answer .refl _
    · rename_i l u hget
      obtain ⟨hu, hl, -⟩ := writes_getOrCreate haddr hget
      exact .injectPacket (hu.trans (writes_storeLoco hl id)) (packetOk_fgPacket _ _ _)
  · exact .answer .refl _

/-- Speed 0 is legal for every legal speed-steps code, in either direction (R24, R237). -/
theorem speedLegal_stopKeepingDirection {c : BitVec 3} (d : Byte) (hc : stepsLegal c = true) :
    speedLegal c (stopKeepingDirection d) = true := by
  have hzero : speedField (stopKeepingDirection d) = 0 := by
    revert d; decide
  obtain ⟨n, hn⟩ := Option.isSome_iff_exists.mp hc
  simp [speedLegal, hn, hzero]

theorem answers_locoMode (addr : Addr) (steps : BitVec 3) (s : State) : Answers s (execLocoMode addr steps s) := by
  refine .hostOnly ?_
  split
  · rename_i hop
    obtain ⟨-, hsteps⟩ := Bool.and_eq_true_iff.mp hop
    split
    · exact .answer .refl _
    · rename_i l hl
      refine .injectPacket (writes_storeLoco hl fun hok => ?_) (packetOk_speedPacket _ _)
      obtain ⟨ha, -, hrest⟩ := locoEntryOk_iff.mp hok
      exact locoEntryOk_iff.mpr ⟨ha, speedLegal_stopKeepingDirection _ hsteps, hrest⟩
  · exact .answer .refl _

theorem answers_locoInfo (addr : Addr) (s : State) : Answers s (execLocoInfo addr s) := by
  refine .hostOnly ?_
  split
  · split
    · exact .answer .refl _
    · exact .respond .refl _ _
  · exact .answer .refl _

theorem answers_locoRailcom (addr : Addr) (s : State) : Answers s (execLocoRailcom addr s) := by
  refine .hostOnly ?_
  split
  · split
    · exact .answer .refl _
    · exact .respond .refl _ _
  · exact .answer .refl _

theorem answers_locoErase (addr : Addr) (s : State) : Answers s (execLocoErase addr s) := by
  refine .hostOnly ?_
  split
  · exact .answer (.single (.locos _ (fun hs => hs.sublist List.filter_sublist) rfl)) _
  · exact .answer .refl _

theorem answers_locoEraseAll (s : State) : Answers s (execLocoEraseAll s) :=
  .hostOnly (.answer (.single (.locos [] (fun hs => hs.sublist (List.nil_sublist _)) rfl)) _)

/-! ### CV commands -/

theorem answers_queueSvc (e : SvcReq) (s : State) : Answers s (queueSvc Config.params e s) := by
  unfold queueSvc
  split
  · split
    · rename_i room
      exact .answer (.single (.cvsvc _ (.push e room) rfl)) _
    · exact .answer .refl _
  · exact .answer .refl _

theorem answers_cvPomRead (addr : Addr) (cvi : Cvi) (s : State) : Answers s (execCvPomRead addr cvi s) := by
  refine .hostOnly ?_
  split
  · rename_i haddr
    split
    · split
      · rename_i room
        split
        · exact .answer .refl _
        · rename_i l u hget
          obtain ⟨hu, -, hpom⟩ := writes_getOrCreate haddr hget
          exact .answer (hu.trans (.single (.cvpom _ (.push _ (hpom ▸ room)) rfl))) _
      · exact .answer .refl _
    · exact .answer .refl _
  · exact .answer .refl _

theorem answers_cvPomWrite (addr : Addr) (cvi : Cvi) (data : Byte) (s : State) :
    Answers s (execCvPomWrite addr cvi data s) := by
  refine .hostOnly ?_
  split
  · split
    · split
      · rename_i room
        exact .answer (.single (.cvpom _ (.push _ room) rfl)) _
      · exact .answer .refl _
    · exact .answer .refl _
  · exact .answer .refl _

/-! ### CSR commands -/

theorem answers_cfgWrite (index : BitVec 8) (data : Byte) (s : State) : Answers s (execCfgWrite index data s) := by
  refine .hostOnly ?_
  split
  · exact .answer .refl _
  · split
    · exact .answer (.other (by rfl)) _
    · exact .answer .refl _

theorem answers_cfgRead (index : BitVec 8) (s : State) : Answers s (execCfgRead index s) := by
  refine .hostOnly ?_
  split
  · split
    · exact .respond .refl _ _
    · exact .answer .refl _
  · split
    · exact .respond .refl _ _
    · exact .answer .refl _

/-! ### Packets, datagrams and output words -/

theorem writes_transmitPacket (P : Params) (bytes : List Byte) (s : State) : Writes s (transmitPacket P bytes s) := by
  rcases transmitPacket_cases P bytes s with ⟨m, t, -, -, -, h⟩ | h | h <;> rw [h]
  · exact .other rfl
  · exact .other rfl

theorem answers_sendRow (P : Params) (i : Instr) (s : State) : Answers s (sendRow P i s) :=
  .next (writes_transmitPacket P _ s)

theorem answers_bidiAppPom (value : Byte) (s : State) : Answers s (execBidiAppPom value s) := by
  unfold execBidiAppPom
  split
  · exact .next .refl
  · rename_i e rest hpom
    split
    · exact .next (.single (.cvpom rest (.of_sublist (hpom ▸ List.sublist_cons_self e rest)) rfl))
    · exact .next .refl

/-- RailCom data leave a record legal: a speed of at most 255 + 256, and one more of the three option bits (R24, R386). -/
theorem locoEntryOk_dynUpdate {a : Addr} {l l' : Loco} {dv : Byte} {subindex : BitVec 6}
    (h : dynUpdate dv subindex l = some l') (hl : locoEntryOk Config.params (a, l) = true) :
    locoEntryOk Config.params (a, l') = true := by
  obtain ⟨ha, hspeed, hlow, hhigh, hrc, hopt⟩ := locoEntryOk_iff.mp hl
  have hbit : ∀ x y : Byte, x.toNat ≤ 7 → y.toNat ≤ 7 → (x ||| y).toNat ≤ 7 := by
    intro x y hx hy
    rw [BitVec.toNat_or]
    exact Nat.le_of_lt_succ (Nat.or_lt_two_pow (n := 3) (by omega) (by omega))
  have hdv := dv.isLt
  unfold dynUpdate at h
  split at h <;> cases h
  · exact locoEntryOk_iff.mpr ⟨ha, hspeed, hlow, hhigh, by simp; omega, hbit _ _ hopt (by decide)⟩
  · exact locoEntryOk_iff.mpr ⟨ha, hspeed, hlow, hhigh, by simp; omega, hbit _ _ hopt (by decide)⟩
  · exact locoEntryOk_iff.mpr ⟨ha, hspeed, hlow, hhigh, hrc, hbit _ _ hopt (by decide)⟩

theorem answers_bidiAppDyn (dv : Byte) (subindex : BitVec 6) (s : State) : Answers s (execBidiAppDyn dv subindex s) := by
  unfold execBidiAppDyn
  split
  · exact .next .refl
  · split
    · exact .next .refl
    · rename_i hl
      split
      · exact .next .refl
      · rename_i hdyn
        exact .next ((writes_setLoco hl (locoEntryOk_dynUpdate hdyn)).otherAfter (by rfl))

theorem answers_response (status : Byte) (value : BitVec 56) (s : State) : Answers s (execResponse status value s) := by
  refine .next (.other ?_)
  unfold putResponse
  cases s.issuer <;> rfl

/-! ### Every instruction -/

/-- All that an instruction can do to the parts: a sequence of legal writes. -/
theorem answers_exec (i : Instr) (s : State) : Answers s (exec i s) := by
  cases i with
  | acquire mode => exact answers_acquire mode s
  | suspend mode => exact answers_suspend mode s
  | release mode => exact answers_release mode s
  | short => exact answers_short s
  | powerOn => exact answers_powerOn s
  | locoDrive addr steps rv => exact answers_locoDrive addr steps rv s
  | locoFunction addr fn on => exact answers_locoFunction addr fn on s
  | locoMode addr steps => exact answers_locoMode addr steps s
  | locoInfo addr => exact answers_locoInfo addr s
  | locoRailcom addr => exact answers_locoRailcom addr s
  | locoErase addr => exact answers_locoErase addr s
  | locoEraseAll => exact answers_locoEraseAll s
  | cvRead cvi => exact .hostOnly (answers_queueSvc _ s)
  | cvWrite cvi data => exact .hostOnly (answers_queueSvc _ s)
  | cvPomRead addr cvi => exact answers_cvPomRead addr cvi s
  | cvPomWrite addr cvi data => exact answers_cvPomWrite addr cvi data s
  | sendFront bytes => exact .hostOnly (.sendRaw s fun hok _ => hok)
  | sendBack bytes => exact .hostOnly (.sendRaw s fun hok _ => hok)
  | decupTx bytes => exact .hostOnly (.sendRaw s nofun)
  | mduTx bytes => exact .hostOnly (.sendRaw s nofun)
  | cfgWrite index data => exact answers_cfgWrite index data s
  | cfgRead index => exact answers_cfgRead index s
  | bidiAppPom value => exact answers_bidiAppPom value s
  | bidiAppDyn dv subindex => exact answers_bidiAppDyn dv subindex s
  | response status value => exact answers_response status value s
  | event ev addr cvi data ext => exact .next (.other rfl)
  | _ => exact answers_sendRow _ _ s

end Sys2Proof.Machine
end

section
/-! The writes of the agents' steps, and the invariants of the data (R23 to R25, R30 to R36, R40, R41, R132, R413, R434). -/

namespace Sys2Proof.Machine

/-! ### SCHED: the operations loop -/

theorem nackAll_parts (s : State) : parts (nackAll s) = parts s := by
  rw [nackAll_eq]; rfl

/-- The abandon step empties the CV queues and forgets the attempt (R290). -/
theorem writes_abandon (s : State) : Writes s (abandon s) :=
  calc
    Writes s (nackAll s) := .other (nackAll_parts s)
    Writes _ { nackAll s with cvsvc := [] } := .single (.cvsvc [] (.of_sublist (List.nil_sublist _)) rfl)
    Writes _ { nackAll s with cvsvc := [], cvpom := [] } := .single (.cvpom [] (.of_sublist (List.nil_sublist _)) rfl)
    Writes _ (abandon s) := writes_noAttempt rfl

theorem writes_schedIdle (s : State) : Writes s (schedIdle s) := by
  unfold schedIdle
  split
  · exact .other rfl
  · split
    · exact .other rfl
    · exact .refl

theorem writes_opsStart (P : Params) (s : State) : Writes s (opsStart P s) := by
  unfold opsStart
  split
  · exact .other rfl
  · split <;> exact .other rfl

/-- A quarter of `BACKQ` free is at least one entry, since the capacity is at least 4 (R6). -/
theorem backq_room {s : State} (h : ¬4 * backFree Config.params s < Config.params.backCap) :
    s.backq.length < Config.params.backCap := by
  have hcap := params_legal.backCap.1
  unfold backFree at h
  omega

theorem writes_opsIdleFill (s : State) : Writes s (opsIdleFill Config.params s) := by
  unfold opsIdleFill
  split
  · exact .other rfl
  · rename_i hfree
    exact writes_pushBack (backq_room hfree) (fun _ => packetOk_idlePacket) rfl

theorem writes_advanceLoco (a : Addr) (s : State) : Writes s (advanceLoco a s) := by
  unfold advanceLoco
  split <;> exact .other rfl

/-- One more pass leaves a record legal (R25, R258 (d)). -/
theorem locoEntryOk_agePriority {a : Addr} {l : Loco} (h : locoEntryOk Config.params (a, l) = true) :
    locoEntryOk Config.params (a, agePriority Config.params l) = true := by
  obtain ⟨ha, hspeed, hlow, -, hrc⟩ := locoEntryOk_iff.mp h
  have hmax := minPriority_le_maxPriority
  exact locoEntryOk_iff.mpr ⟨ha, hspeed, by simp only [agePriority]; omega, Nat.min_le_right _ _, hrc⟩

theorem writes_opsLoco (a : Addr) (s : State) : Writes s (opsLoco Config.params a s) := by
  unfold opsLoco
  split
  · exact writes_advanceLoco a s
  · rename_i l hl
    split
    · exact writes_advanceLoco a s
    · split
      · exact .other rfl
      · rename_i hfree
        split
        · exact .refl
        · rename_i p _
          have hpush : Writes s (pushBack { bytes := buildPacket a l p } s) :=
            writes_pushBack (backq_room hfree) (fun _ => packetOk_buildPacket a l p) rfl
          dsimp only
          split
          · exact (hpush.trans (writes_setLoco hl locoEntryOk_agePriority)).trans (writes_advanceLoco a _)
          · exact hpush.otherAfter rfl

/-- The end of a pass counts up, or starts again with every priority at its least (R25, R259). -/
theorem writes_opsPassEnd (s : State) : Writes s (opsPassEnd Config.params s) := by
  have hmax := minPriority_le_maxPriority
  unfold opsPassEnd
  dsimp only
  split
  · calc
      Writes s { s with priorityCount := minPriority } := .single (.priorityCount _ (Nat.le_refl _) hmax rfl)
      Writes _ _ := .single (.locos _ LocoInv.resetPriorities rfl)
  · exact .single (.priorityCount _ (by simp only [minPriority] at *; omega) (Nat.min_le_right _ _) rfl)

theorem writes_opsSvc (s : State) : Writes s (opsSvc s) := by
  unfold opsSvc
  split
  · exact .other rfl
  · split
    · split <;> exact .other rfl
    · exact .other rfl

theorem writes_opsPom (s : State) : Writes s (opsPom Config.params s) := by
  unfold opsPom
  split
  · exact .refl
  · rename_i e rest hpom
    split
    · split
      · rename_i hfree
        exact writes_pushFront (Nat.lt_of_sub_pos hfree) (fun _ => packetOk_pomPacket e) rfl
      · exact .refl
    · exact .single (.cvpom _ (le_max_of_le_left (by simp [hpom])) rfl)

/-! ### SCHED: the switches and the service loop -/

theorem writes_switchAway (m : Mode) (p : SchedPhase) (s : State) : Writes s (switchAway m p s) := by
  unfold switchAway
  split
  · rename_i hcas
    obtain ⟨-, rfl⟩ := cas_eq_some hcas
    exact .other rfl
  · exact writes_abandon s

theorem writes_switchInto (m : Mode) (p : SchedPhase) (s : State) : Writes s (switchInto m p s) := by
  unfold switchInto
  split
  · exact (writes_enterMode m s).otherAfter rfl
  · exact .refl

theorem writes_svcEntry (s : State) : Writes s (svcEntry s) := by
  unfold svcEntry
  split
  · exact .other rfl
  · exact .refl

theorem writes_svcStartReset (s : State) : Writes s (svcStartReset Config.params s) := by
  unfold svcStartReset
  split
  · exact .other rfl
  · split
    · split
      · rename_i hfree
        exact writes_pushBack (Nat.lt_of_sub_pos hfree) (fun _ => packetOk_resetPacket) rfl
      · exact .refl
    · exact .other rfl

theorem writes_svcNext (s : State) : Writes s (svcNext s) := by
  unfold svcNext
  split <;> exact .other rfl

/-- An attempt repeats a legal packet (R267). -/
theorem writes_startAttempt {pkt : List Byte} {s u : State} (hu : parts u = parts s) (hp : packetOk pkt = true) :
    Writes s (startAttempt pkt u) :=
  Writes.otherBefore (.single (.attempt (some pkt) (fun _ _ hbs => by cases hbs; exact hp) rfl)) hu

theorem writes_svcRun (P : Params) (s : State) : Writes s (svcRun P s) := by
  unfold svcRun
  split
  · exact .refl
  · split
    · exact writes_startAttempt rfl (packetOk_svcWriteByte _ _)
    · split
      · exact .other rfl
      · split
        · exact writes_startAttempt rfl (packetOk_svcVerifyByte _ _)
        · exact writes_startAttempt rfl (packetOk_svcVerifyBit _ _ _)

theorem writes_attProgDone (nc : Nat) (s : State) : Writes s (attProgDone nc s) := by
  unfold attProgDone
  split <;> exact .other rfl

theorem writes_attProg (s : State) : Writes s (attProg Config.params s) := by
  unfold attProg
  split
  · rename_i np nc pkt _ _ hpkt
    split
    · split
      · rename_i hfree
        have hpush : Writes s
            (pushBack
              { bytes := pkt, first := decide (s.sched.r = 0), last := decide (s.sched.r + 1 = np ∧ nc = 0) }
              { s with sched := { s.sched with r := s.sched.r + 1 } }) :=
          writes_pushBack (Nat.lt_of_sub_pos hfree) (fun hs => hs.attempt pkt hpkt) rfl
        dsimp only
        split
        · exact hpush.trans (writes_attProgDone nc _)
        · exact hpush
      · exact .refl
    · exact writes_attProgDone nc s
  · exact .refl
  · exact .other rfl

theorem writes_attReset (s : State) : Writes s (attReset Config.params s) := by
  unfold attReset
  split
  · exact .other rfl
  · rename_i nc _
    split
    · split
      · rename_i hfree
        have hpush : Writes s
            (pushBack { bytes := resetPacket, last := decide (s.sched.r + 1 = nc) }
              { s with sched := { s.sched with r := s.sched.r + 1 } }) :=
          writes_pushBack (Nat.lt_of_sub_pos hfree) (fun _ => packetOk_resetPacket) rfl
        dsimp only
        split
        · exact hpush.otherAfter rfl
        · exact hpush
      · exact .refl
    · exact .other rfl

/-- A finished request leaves `CVSVC` and its attempt is over (R274). -/
theorem writes_finishRequest (e : SvcReq) (result : Option Byte) {s u : State} (hu : parts u = parts s) :
    Writes s (finishRequest e result u) := by
  refine Writes.otherBefore ?_ hu
  cases result
  all_goals
    exact calc
      Writes u { u with cvsvc := u.cvsvc.drop 1 } := .single (.cvsvc _ (.of_sublist (List.drop_sublist _ _)) rfl)
      Writes _ _ := writes_noAttempt rfl

theorem writes_algorithmStep {P : Params} {e : SvcReq} {a : Bool} {s u t : State} {alg : SvcAlg}
    (hu : parts u = parts s) (h : algorithmStep P e a u alg = some t) : Writes s t := by
  cases alg with
  | byte =>
    simp only [algorithmStep] at h
    split at h
    · cases h; exact writes_finishRequest e _ hu
    · split at h
      · cases h; exact writes_finishRequest e _ hu
      · cases h; exact writes_startAttempt hu (packetOk_svcVerifyByte _ _)
  | bit =>
    simp only [algorithmStep] at h
    split at h
    · cases h; exact writes_startAttempt hu (packetOk_svcVerifyBit _ _ _)
    · split at h
      · cases h
      · split at h
        · cases h; exact writes_finishRequest e _ hu
        · cases h; exact writes_startAttempt hu (packetOk_svcVerifyByte _ _)
  | confirm => cases h; exact writes_finishRequest e _ hu
  | write => cases h; exact writes_finishRequest e _ hu

theorem writes_attWait (P : Params) (s : State) : Writes s (attWait P s) := by
  have hstep : ∀ (e : SvcReq) (a : Bool) (alg : SvcAlg) (u : State), parts u = parts s →
      Writes s ((algorithmStep P e a u alg).getD (schedFault s)) := by
    intro e a alg u hu
    cases h : algorithmStep P e a u alg with
    | none => exact .other rfl
    | some t => exact writes_algorithmStep hu h
  unfold attWait
  split
  · split
    · exact hstep _ _ _ _ rfl
    · split
      · exact hstep _ _ _ _ rfl
      · exact .refl
  · exact .refl

/-! ### Moves that run instructions -/

/-- What an agent's step writes before it runs its instructions. -/
def Advances (s : State) (a : Advance) : Prop :=
  ∀ is u, a = .run is u → Writes s u

theorem Advances.run {is : List Instr} {s u : State} (h : Writes s u) : Advances s (.run is u) := by
  rintro _ _ ⟨⟩
  exact h

theorem advances_opsBidi (P : Params) (s : State) : Advances s (opsBidi P s) := by
  unfold opsBidi
  split
  · rename_i f rest hq
    exact .run (.single (.feedback rest (.of_sublist (hq ▸ List.sublist_cons_self f rest)) rfl))
  · split
    · rename_i e rest hpom
      split
      · exact .run (.single (.cvpom rest (.of_sublist (hpom ▸ List.sublist_cons_self e rest)) rfl))
      · exact .run (.other (by rfl))
    · exact .run (.other (by rfl))

theorem advances_schedAct (s : State) : Advances s (schedAct Config.params s) := by
  unfold schedAct
  split
  · exact .run (writes_schedIdle s)
  · exact .run (writes_opsStart _ s)
  · exact .run (writes_opsIdleFill s)
  · split
    · exact .run (writes_opsLoco _ s)
    · exact .run .refl
  · exact .run (writes_opsPassEnd s)
  · exact .run (writes_opsSvc s)
  · exact .run (writes_opsPom s)
  · exact advances_opsBidi _ s
  · exact .run (writes_switchAway _ _ s)
  · exact .run (writes_switchInto _ _ s)
  · exact .run (writes_svcEntry s)
  · exact .run (writes_svcStartReset s)
  · exact .run (writes_svcNext s)
  · exact .run (writes_svcRun _ s)
  · exact .run (writes_attProg s)
  · exact .run (writes_attReset s)
  · exact .run (writes_attWait _ s)
  · exact .run (writes_switchAway _ _ s)
  · exact .run (writes_switchInto _ _ s)

theorem advances_schedStep (s : State) : Advances s (schedStep Config.params s) := by
  unfold schedStep
  split
  · exact advances_schedAct s
  · exact .run (writes_abandon s)

/-! ### DCCDRV -/

theorem writes_dccIdleStep (s : State) : Writes s (dccIdleStep s) := by
  have hclear : Writes s (clearDccQueues { s with dcc := { s.dcc with resume := false } }) :=
    (writes_clearDccQueues _).otherBefore rfl
  unfold dccIdleStep
  dsimp only
  split
  · exact .other rfl
  · split
    · exact hclear.otherAfter rfl
    · exact hclear

theorem writes_emptyUart {s t : State} (h : parts t = { parts s with uartFifo := [] }) : Writes s t :=
  .single (.uart [] (.of_sublist (List.nil_sublist _)) h)

/-- The receiver is emptied with the settings latched, and for service mode the window too (R351 (d), (e)). -/
theorem writes_dccInit (hwOk : Bool) (m : Mode) (s : State) : Writes s (dccInit hwOk m s) := by
  unfold dccInit
  split
  · split
    · have huart : Writes s { s with uartFifo := [] } := writes_emptyUart rfl
      refine huart.trans ?_
      dsimp only
      split
      · exact .single (.window [] (Nat.zero_le _) rfl)
      · exact Writes.other rfl
    · exact .other rfl
  · exact .other rfl

theorem writes_dccCheck (s : State) : Writes s (dccCheck s) := by
  unfold dccCheck
  split
  · exact .other rfl
  · split <;> exact .other rfl

theorem packetOk_fillerPacket (m : Mode) : packetOk (fillerPacket m).bytes = true := by
  unfold fillerPacket
  split <;> decide

/-- The selected packet becomes the current one while it is still queued, and is then taken from its queue (R354 (a)). -/
theorem writes_selectPacket (m : Mode) (s : State) :
    Writes s
      { (selectPacket m s).2 with
        dcc := { (selectPacket m s).2.dcc with cur := some (selectPacket m s).1 } } := by
  have hcur : ∀ e : Packet, (PacketInv s → packetOk e.bytes = true) →
      Writes s { s with dcc := { s.dcc with cur := some e } } := fun e he =>
    .single (.current (some e) (fun hs p hp => by cases hp; exact he hs) rfl)
  rcases selectPacket_cases m s with ⟨e, more, hq, hsel⟩ | ⟨e, more, -, hq, hsel⟩ | ⟨-, -, hsel⟩ <;> rw [hsel]
  · exact (hcur e fun hs => hs.front e (by simp [hq])).trans
      (writes_fewerFront (hq ▸ List.sublist_cons_self e more) rfl)
  · exact (hcur e fun hs => hs.back e (by simp [hq])).trans
      (writes_fewerBack (hq ▸ List.sublist_cons_self e more) rfl)
  · exact hcur _ fun _ => packetOk_fillerPacket m

theorem advances_dccSelect (P : Params) (m : Mode) (s : State) : Advances s (dccSelect P m s) := by
  unfold dccSelect
  split
  · exact .run (.other (by rfl))
  · dsimp only
    split
    · exact .run (writes_selectPacket m s)
    · exact .run ((writes_selectPacket m s).trans (writes_transmitPacket P _ _))

/-- The ACK detector's actions on the tags of a packet leave its window (R355, R462, R464). -/
theorem tagActions_parts (p : Packet) (s : State) : parts (tagActions p s) = parts s := by
  have hfirst : parts (firstAction s) = parts s := by unfold firstAction; split <;> rfl
  have hend : ∀ u, parts (endAction u) = parts u := by intro u; unfold endAction; split <;> rfl
  unfold tagActions
  dsimp only
  split <;> split <;> simp [hfirst, hend]

theorem writes_dccTxDone (s : State) : Writes s (dccTxDone s) := by
  unfold dccTxDone
  cases s.dcc.cur with
  | none => dsimp only; split <;> exact .other rfl
  | some p =>
    have htags : Writes s (tagActions p s) := .other (tagActions_parts p s)
    dsimp only
    split <;> exact htags.otherAfter rfl

theorem writes_pushFeedback (f : Option Feedback) (s : State) : Writes s (pushFeedback Config.params f s) := by
  unfold pushFeedback
  split
  · split
    · rename_i e room
      exact .single (.feedback _ (.push e room) rfl)
    · exact .refl
  · exact .refl

theorem writes_dccCapture (s : State) : Writes s (dccCapture Config.params s) :=
  (writes_pushFeedback _ s).trans (writes_emptyUart rfl)

theorem writes_dccTeardown (hwOk : Bool) (s : State) : Writes s (dccTeardown hwOk s) := by
  unfold dccTeardown
  split
  · split
    · calc
        Writes s (clearDccQueues s) := writes_clearDccQueues s
        Writes _ (dccReleaseBidi (clearDccQueues s)) := writes_emptyUart rfl
        Writes _ _ := writes_noCurrent rfl
    · exact .other rfl
  · exact .other rfl

theorem advances_dccStep (hwOk : Bool) (s : State) : Advances s (dccStep Config.params hwOk s) := by
  unfold dccStep
  split
  · split
    · exact .run (writes_dccIdleStep s)
    · exact .run .refl
  · exact .run (writes_dccInit hwOk _ s)
  · exact .run (writes_dccCheck s)
  · exact advances_dccSelect _ _ s
  · split
    · exact .run (writes_dccTxDone s)
    · exact .run .refl
  · split
    · exact .run (.other (by rfl))
    · exact .run .refl
  · exact .run (writes_dccCapture s)
  · exact .run (writes_dccTeardown hwOk s)
  · exact .run .refl
  · exact .run .refl

theorem advances_dccMove (hwOk : Bool) (s : State) : Advances s (dccMove Config.params hwOk s) := by
  unfold dccMove
  split
  · exact .run .refl
  · exact advances_dccStep hwOk s

/-! ### DECUPDRV and DECUPEDGE -/

theorem writes_decupIdleStep (s : State) : Writes s (decupIdleStep s) := by
  have hclear : Writes s (clearDecupQueues { s with decup := { s.decup with resume := false } }) :=
    (writes_clearDecupQueues _).otherBefore rfl
  unfold decupIdleStep
  dsimp only
  split
  · exact .other rfl
  · split
    · exact hclear.otherAfter rfl
    · exact hclear

/-- The edge counter and the raw count start at 0 (R401, R410). -/
theorem writes_zeroCounts {s t : State} (h : parts t = { parts s with edges := 0, raw := 0 }) : Writes s t :=
  calc
    Writes s { s with decup := { s.decup with edges := 0 } } := .single (.edges 0 (Nat.zero_le _) rfl)
    Writes _ t := .single (.raw 0 (Nat.zero_le _) h)

theorem writes_decupInit (P : Params) (hwOk : Bool) (s : State) : Writes s (decupInit P hwOk s) := by
  unfold decupInit
  split
  · split
    · exact writes_zeroCounts rfl
    · exact .other rfl
  · exact .other rfl

theorem writes_decupCheck (s : State) : Writes s (decupCheck s) := by
  unfold decupCheck
  split
  · exact .other rfl
  · split <;> exact .other rfl

theorem writes_decupWaitPkt (P : Params) (m : Mode) (s : State) : Writes s (decupWaitPkt P m s) := by
  unfold decupWaitPkt
  split
  · exact .other rfl
  · split
    · rename_i pkt rest hq
      exact .single (.decupIn rest (.of_sublist (hq ▸ List.sublist_cons_self pkt rest)) rfl)
    · split
      · exact .other rfl
      · exact .refl

theorem writes_decupTxDone (P : Params) (m : Mode) (pkt : List Byte) (s : State) : Writes s (decupTxDone P m pkt s) :=
  .single (.edges 0 (Nat.zero_le _) rfl)

theorem writes_decupWin1 (s : State) : Writes s (decupWin1 s) := by
  unfold decupWin1
  split
  · exact .other rfl
  · exact .single (.raw 0 (Nat.zero_le _) rfl)

theorem writes_decupWin2 (s : State) : Writes s (decupWin2 s) :=
  .single (.raw _ (Nat.min_le_right _ _) rfl)

/-- A workaround code is the raw count, 1 or 2 (R408, R413). -/
theorem decupWorkaround_le {m : Mode} {pkt : List Byte} {known : Bool} {raw : Nat} (h : raw ≤ 2) :
    (BitVec.ofNat 8 (Config.params.decupWorkaround m pkt known raw)).toNat ≤ 2 := by
  have hle : Config.params.decupWorkaround m pkt known raw ≤ 2 := by
    rcases params_legal.workaround m pkt known raw with hw | hw | hw <;> omega
  rw [BitVec.toNat_ofNat]
  exact (Nat.mod_le _ _).trans hle

theorem writes_decupSettle {m : Mode} {pkt : List Byte} {s : State} (room : s.decupReply.length < Config.params.replyCap) :
    Writes s (decupSettle Config.params m pkt s) :=
  .single (.decupReply _ (.push _ room)
    (fun hs c hc => (List.mem_append.mp hc).elim (hs.decupCodes c) fun hc =>
      List.mem_singleton.mp hc ▸ decupWorkaround_le hs.raw) rfl)

theorem writes_decupTeardown (hwOk : Bool) (s : State) : Writes s (decupTeardown hwOk s) := by
  unfold decupTeardown
  split
  · split
    · exact (writes_clearDecupQueues s).trans (writes_zeroCounts rfl)
    · exact .other rfl
  · exact .other rfl

/-- DECUPDRV's step; a code is appended only where the reply queue has room (R412). -/
theorem writes_decupAct (hwOk : Bool) {s : State}
    (room : s.decup.phase = .uSettle → s.decupReply.length < Config.params.replyCap) :
    Writes s (decupAct Config.params hwOk s) := by
  unfold decupAct
  split
  · split
    · exact writes_decupIdleStep s
    · exact .refl
  · exact writes_decupInit _ hwOk s
  · exact writes_decupCheck s
  · exact writes_decupWaitPkt _ _ s
  · exact writes_decupTxDone _ _ _ s
  · exact writes_decupWin1 s
  · exact writes_decupWin2 s
  · rename_i hphase _ _
    exact writes_decupSettle (room hphase)
  · exact writes_decupTeardown hwOk s
  · exact .refl
  · exact .refl
  · exact .refl

/-- The settle poll waits for room in the reply queue (R412). -/
theorem decupPollDue_room {P : Params} {s : State} (hdue : decupPollDue P s = true) (hphase : s.decup.phase = .uSettle) :
    s.decupReply.length < P.replyCap := by
  simp only [decupPollDue, hphase, Bool.and_eq_true, decide_eq_true_eq] at hdue
  exact hdue.2

theorem writes_decupMove (hwOk : Bool) (s : State) : Writes s (decupMove Config.params hwOk s) := by
  have hpoll : ∀ b : Bool, Writes s
      (if decupPollDue Config.params s && b then { decupAct Config.params hwOk s with polled := true } else s) := by
    intro b
    split
    · rename_i hdue
      exact (writes_decupAct hwOk (decupPollDue_room (Bool.and_eq_true_iff.mp hdue).1)).otherAfter rfl
    · exact .refl
  have hact : s.decup.phase ≠ .uSettle → Writes s (decupAct Config.params hwOk s) := fun hne =>
    writes_decupAct hwOk fun heq => absurd heq hne
  unfold decupMove
  split
  · rename_i hphase
    split
    · exact hact (by simp [hphase])
    · exact .refl
  · exact hpoll _
  · exact hpoll _
  · exact hpoll _
  all_goals
    rename_i hphase
    exact hact (by simp [hphase])

theorem writes_decupEdge (s : State) : Writes s (decupEdge s) := by
  have hedge : Writes s { s with decup := { s.decup with edges := edgeCount s.decup.edges } } :=
    .single (.edges _ (Nat.min_le_right _ _) rfl)
  unfold decupEdge
  split
  · exact hedge
  · exact hedge
  all_goals exact .refl

theorem writes_replyDecupStep (s : State) : Writes s (replyDecupStep s) :=
  .single (.decupReply _ (.of_sublist (List.drop_sublist _ _)) (fun hs c hc => hs.decupCodes c (List.mem_of_mem_drop hc)) rfl)

/-! ### MDUDRV and MDUCAP -/

theorem writes_mduIdleStep (s : State) : Writes s (mduIdleStep s) := by
  have hclear : Writes s (clearMduQueues { s with mdu := { s.mdu with resume := false } }) :=
    (writes_clearMduQueues _).otherBefore rfl
  unfold mduIdleStep
  dsimp only
  split
  · exact .other rfl
  · split
    · exact hclear.otherAfter rfl
    · exact hclear

theorem writes_mduInit (P : Params) (hwOk : Bool) (s : State) : Writes s (mduInit P hwOk s) := by
  unfold mduInit
  split
  · split <;> exact .other rfl
  · exact .other rfl

theorem writes_mduCheck (s : State) : Writes s (mduCheck s) := by
  unfold mduCheck
  split
  · exact .other rfl
  · split <;> exact .other rfl

theorem writes_mduWaitPkt (P : Params) (m : Mode) (s : State) : Writes s (mduWaitPkt P m s) := by
  unfold mduWaitPkt
  split
  · exact .other rfl
  · split
    · rename_i pkt rest hq
      split
      · exact .single (.mduIn rest (.of_sublist (hq ▸ List.sublist_cons_self pkt rest)) rfl)
      · exact .other rfl
    · split
      · exact .other rfl
      · exact .refl

/-- An MDU ack code is 0, 1 or 2 (R434, R439). -/
theorem mduCode_le (capture : Option (BitVec 32)) (counts : Nat × Nat) : (mduCode capture counts).toNat ≤ 2 := by
  unfold mduCode
  split
  · decide
  · split <;> decide

theorem writes_mduEval {pkt : List Byte} {s : State} (room : s.mduReply.length < Config.params.replyCap) :
    Writes s (mduEval Config.params pkt s) := by
  unfold mduEval
  split
  · exact .single (.mduReply _ (.push _ room)
      (fun hs c hc => (List.mem_append.mp hc).elim (hs.mduCodes c) fun hc =>
        List.mem_singleton.mp hc ▸ mduCode_le _ _) rfl)
  · exact .other rfl

theorem writes_mduTeardown (P : Params) (hwOk : Bool) (s : State) : Writes s (mduTeardown P hwOk s) := by
  unfold mduTeardown
  split
  · split
    · exact (writes_clearMduQueues s).otherAfter rfl
    · exact .other rfl
  · exact .other rfl

/-- MDUDRV's step; a code is appended only where the reply queue has room (R439). -/
theorem writes_mduAct (hwOk : Bool) {s : State}
    (room : s.mdu.phase = .mEval → s.mduReply.length < Config.params.replyCap) :
    Writes s (mduAct Config.params hwOk s) := by
  unfold mduAct
  split
  · split
    · exact writes_mduIdleStep s
    · exact .refl
  · exact writes_mduInit _ hwOk s
  · exact writes_mduCheck s
  · exact writes_mduWaitPkt _ _ s
  · exact .other rfl
  · rename_i hphase _
    exact writes_mduEval (room hphase)
  · exact writes_mduTeardown _ hwOk s
  · exact .refl
  · exact .refl

/-- The evaluation waits for room in the reply queue (R439). -/
theorem mduPollDue_room {P : Params} {s : State} (hdue : mduPollDue P s = true) : s.mduReply.length < P.replyCap := by
  simp only [mduPollDue, Bool.and_eq_true, decide_eq_true_eq] at hdue
  exact hdue.2

theorem writes_mduMove (hwOk : Bool) (s : State) : Writes s (mduMove Config.params hwOk s) := by
  have hact : s.mdu.phase ≠ .mEval → Writes s (mduAct Config.params hwOk s) := fun hne =>
    writes_mduAct hwOk fun heq => absurd heq hne
  unfold mduMove
  split
  · rename_i hphase
    split
    · exact hact (by simp [hphase])
    · exact .refl
  · split
    · rename_i hdue
      exact (writes_mduAct hwOk fun _ => mduPollDue_room (Bool.and_eq_true_iff.mp hdue).1).otherAfter rfl
    · exact .refl
  all_goals
    rename_i hphase
    exact hact (by simp [hphase])

theorem writes_mduCapture (P : Params) (s : State) : Writes s (mduCapture P s) := by
  unfold mduCapture
  split
  · exact .other rfl
  · exact .refl

theorem writes_replyMduStep (s : State) : Writes s (replyMduStep s) :=
  .single (.mduReply _ (.of_sublist (List.drop_sublist _ _)) (fun hs c hc => hs.mduCodes c (List.mem_of_mem_drop hc)) rfl)

/-! ### CUTOUT, UARTRX and SVCACK -/

theorem writes_cutoutStep (P : Params) (s : State) : Writes s (cutoutStep P s) := by
  unfold cutoutStep
  split
  · split
    · exact .refl
    · exact .other rfl
    · exact .other rfl
    · exact .other rfl
  · exact .refl

theorem writes_uartStep (b : Byte) (s : State) : Writes s (uartStep Config.params b s) := by
  unfold uartStep
  split
  · rename_i haccepts
    simp only [uartAccepts, Bool.and_eq_true, decide_eq_true_eq] at haccepts
    exact .single (.uart _ (.push b haccepts.2) rfl)
  · exact .refl

/-- The window keeps the last `ACK_WINDOW` samples (R461). -/
theorem length_windowPush_le (win : List (BitVec 16)) (x : BitVec 16) : (windowPush win x).length ≤ ackWindow := by
  simp only [windowPush, List.length_drop]
  omega

theorem svcAckSample_parts (x : BitVec 16) (s : State) :
    parts { s with svcack := svcAckSample s.svcack x } =
      { parts s with
        win := windowPush s.svcack.win x
        sum := windowSum (windowPush s.svcack.win x)
        zeros := windowZeros (windowPush s.svcack.win x) } := by
  simp only [parts, svcAckSample]

/-- A sample moves the window, and the sum and the zeros with it; the ACK test changes neither (R461, R463). -/
theorem writes_sampleStep (x : BitVec 16) (s : State) : Writes s (sampleStep x s) := by
  have hsample : ∀ t, parts t = parts { s with svcack := svcAckSample s.svcack x } → Writes s t := fun t ht =>
    .single (.window (windowPush s.svcack.win x) (length_windowPush_le _ _) (ht.trans (svcAckSample_parts x s)))
  unfold sampleStep
  dsimp only
  split
  · exact .refl
  · exact hsample _ rfl
  · split
    · split
      · exact hsample _ (by simp only [parts])
      · exact .other rfl
    · exact hsample _ rfl

theorem writes_envMove (P : Params) {f : State → State} {s : State} (h : Writes s (f s)) : Writes s (envMove P f s) := by
  unfold envMove
  split
  · exact h
  · exact .refl

/-! ### HOST and the other issuers -/

theorem writes_hostIntake (s : State) : Writes s (hostIntake s) := by
  unfold hostIntake
  split
  · exact .other rfl
  · exact .refl

/-- A response after a change outside `parts`. -/
theorem writes_respond_of_other {st : Byte} {v : BitVec 56} {s u : State} (hu : parts u = parts s) :
    Writes s (respond st v u) :=
  (writes_respond st v u).otherBefore hu

theorem advances_hostExec (c : Command) (s : State) : Advances s (hostExec c s) := by
  unfold hostExec
  split
  · exact .run (.other (by rfl))
  · exact .run (writes_respond_of_other (by rfl))

/-- The waiting packet is pushed where its queue has room; it is a legal one where the queue is a DCC queue (R231). -/
theorem writes_targetPush {p : Pending} {s : State} (hp : s.host.pend = some p)
    (room : 0 < targetFree Config.params s p.target) : Writes s (targetPush p.target p.bytes s) := by
  unfold targetFree at room
  unfold targetPush
  cases htarget : p.target
  all_goals
    simp only [htarget] at room
    have hroom := Nat.lt_of_sub_pos room
  case frontq => exact writes_pushFront hroom (fun hs => hs.pending p hp (by rw [htarget]; rfl)) rfl
  case backq => exact writes_pushBack hroom (fun hs => hs.pending p hp (by rw [htarget]; rfl)) rfl
  case decupInq => exact .single (.decupIn _ (.push _ hroom) rfl)
  case mduInq => exact .single (.mduIn _ (.push _ hroom) rfl)

theorem writes_hostPush {p : Pending} {s : State} (hp : s.host.pend = some p) :
    Writes s (hostPush Config.params p s) := by
  unfold hostPush
  split
  · split
    · rename_i room
      have hpush : Writes s (targetPush p.target p.bytes { s with issuer := .host }) :=
        Writes.otherBefore (writes_targetPush (s := { s with issuer := .host }) hp room) rfl
      exact hpush.trans (writes_respond _ _ _)
    · exact .refl
  · exact writes_respond_of_other rfl

theorem advances_hostStep (s : State) : Advances s (hostStep Config.params s) := by
  unfold hostStep
  split
  · exact .run (writes_hostIntake s)
  · exact advances_hostExec _ s
  · rename_i hp
    exact .run (writes_hostPush hp)
  · exact .run .refl
  · exact .run .refl

theorem advances_issuerStep (who : Issuer) (p : Port) (s : State) : Advances s (issuerStep who p s) := by
  unfold issuerStep
  split
  · exact .run .refl
  · split
    · split
      · exact .run (.other (by rfl))
      · exact .run (writes_respond_of_other (by rfl))
    · exact .run (writes_respond_of_other (by rfl))

theorem writes_deliverStep (who : Issuer) (ws : List Word) (s : State) : Writes s (deliverStep who ws s) := by
  unfold deliverStep
  split
  · cases who <;> exact .other rfl
  · exact .refl

/-! ### The step -/

theorem advances_timeMove (P : Params) (s : State) : Advances s (timeMove P s) := by
  unfold timeMove
  split
  · exact .run .refl
  · split
    · exact .run (.other (by rfl))
    · rintro _ _ ⟨⟩

/-- All that a move can do to the parts before its instructions run. -/
theorem advances_moveStep (m : Move) (s : State) : Advances s (moveStep Config.params m s) := by
  cases m with
  | host => exact advances_hostStep s
  | sched => exact advances_schedStep s
  | dccdrv hwOk => exact advances_dccMove hwOk s
  | cutout => exact .run (writes_cutoutStep _ s)
  | decupdrv hwOk => exact .run (writes_decupMove hwOk s)
  | mdudrv hwOk => exact .run (writes_mduMove hwOk s)
  | time => exact advances_timeMove _ s
  | uart b => exact .run (writes_envMove _ (writes_uartStep b s))
  | edge => exact .run (writes_envMove _ ((writes_decupEdge s).trans (writes_mduCapture _ _)))
  | sample x => exact .run (writes_envMove _ (writes_sampleStep x s))
  | replyDecup => exact .run (writes_replyDecupStep s)
  | replyMdu => exact .run (writes_replyMduStep s)
  | analog => exact advances_issuerStep _ _ s
  | ext => exact advances_issuerStep _ _ s
  | deliver who ws => exact .run (writes_deliverStep who ws s)

theorem parts_nextMove (P : Params) (s : State) : parts (nextMove P s).2 = parts s := by
  unfold nextMove
  split <;> rfl

theorem advances_advance (s : State) : Advances s (advance Config.params s) := by
  unfold advance
  split
  · split
    · exact .run (.other (by rfl))
    · exact .run (.other (by rfl))
  · intro is u h
    exact (advances_moveStep _ _ is u h).otherBefore (parts_nextMove _ s)

/-- All that a step can do to the parts: a sequence of legal writes. -/
theorem step_writes {s t : State} (h : step s = .next t) : Writes s t := by
  obtain ⟨-, is, u, hadvance, hrun⟩ := step_eq_next h
  exact runInstrs_inv (Inv := Writes s) (fun i v w hv hw => hv.trans (answers_exec i v w hw)) is u t
    (advances_advance s is u hadvance) hrun

/-! ### The invariants of the data -/

/-- Settles O27: a step is a sequence of writes, and each keeps the loco invariant. -/
theorem locoInvKept : Obligations.LocoInvKept :=
  fun _ _ hs h => (step_writes h).keep LocoInv.write hs

/-- Settles O40: a step is a sequence of writes, and each keeps the packets legal. -/
theorem packetInvKept : Obligations.PacketInvKept :=
  fun _ _ hs h => (step_writes h).keep PacketInv.write hs

/-- Settles O41: a step is a sequence of writes, and each keeps the queues within their capacities. -/
theorem queueInvKept : Obligations.QueueInvKept :=
  fun _ _ hs h => (step_writes h).keep QueueInv.write hs

/-- Settles O55: a step is a sequence of writes, and each keeps the counters, the codes and the window of the detectors. -/
theorem detectorInvKept : Obligations.DetectorInvKept :=
  ⟨fun _ _ hs h => (step_writes h).keep CodeInv.write hs, fun _ _ hs h => (step_writes h).keep AckInv.write hs⟩

end Sys2Proof.Machine
end

section
/-! Bit fields of words: command words and payload words (R113 to R115). -/

namespace Sys2Proof

/-! ### Bit fields -/

/-- A word written as its upper bits before its lower ones. -/
@[simp] theorem cast_extractLsb'_append {n m w : Nat} (x : BitVec w) (h : n + m = w) :
    (x.extractLsb' m n ++ x.extractLsb' 0 m).cast h = x := by
  subst h
  exact BitVec.extractLsb'_append_extractLsb'

/-- The low bits of a widened field are the field. -/
@[simp] theorem extractLsb'_setWidth_low {w v : Nat} (x : BitVec w) (h : w ≤ v) : (x.setWidth v).extractLsb' 0 w = x := by
  rw [BitVec.extractLsb'_setWidth_of_le (by omega), BitVec.extractLsb'_eq_self]

/-- The bits a field is widened by are 0. -/
@[simp] theorem extractLsb'_setWidth_high {w v n : Nat} (x : BitVec w) : (x.setWidth v).extractLsb' w n = 0 := by
  apply BitVec.eq_of_getLsbD_eq
  intro i hi
  simp

/-- Concatenation places the upper word above the lower one. -/
theorem toNat_append_eq_add {v w : Nat} (x : BitVec v) (y : BitVec w) :
    (x ++ y).toNat = x.toNat * 2 ^ w + y.toNat := by
  rw [BitVec.toNat_append, ← Nat.shiftLeft_add_eq_or_of_lt y.isLt, Nat.shiftLeft_eq]

/-! ### Command words (R113) -/

/-- The fields of a command word are read back (R113). -/
@[simp] theorem CmdFields.ofWord_toWord (f : CmdFields) : CmdFields.ofWord f.toWord = f := by
  simp (disch := omega) only [CmdFields.ofWord, CmdFields.toWord, BitVec.extractLsb'_cast,
    BitVec.extractLsb'_append_eq_of_le, BitVec.extractLsb'_append_eq_of_add_le]
  simp

/-- The place of each field in a command word (R113). -/
theorem CmdFields.toNat_toWord (f : CmdFields) :
    f.toWord.toNat =
      f.op.toNat * 2 ^ 56 + f.addr.toNat * 2 ^ 42 + f.cvi.toNat * 2 ^ 32 + f.data.toNat * 2 ^ 24 + f.aux.toNat * 2 ^ 16 +
        f.len.toNat * 2 ^ 8 + f.rsv.toNat := by
  simp only [CmdFields.toWord, BitVec.toNat_cast, toNat_append_eq_add]
  ring

/-- Settles O3: where the fields stand, and that they are read back. -/
theorem commandWordFields : Obligations.CommandWordFields :=
  fun f => ⟨f.toNat_toWord, f.ofWord_toWord⟩

/-! ### Opcodes (R114) -/

/-- An opcode is read from its own byte alone (R114). -/
theorem Opcode.ofByte_eq_some_iff {b : BitVec 8} {o : Opcode} : Opcode.ofByte b = some o ↔ b = o.byte := by
  constructor
  · revert b
    cases o <;> decide
  · rintro rfl
    cases o <;> rfl

@[simp] theorem Opcode.ofByte_byte (o : Opcode) : Opcode.ofByte o.byte = some o :=
  Opcode.ofByte_eq_some_iff.mpr rfl

/-- The payload opcodes are the four of R115. -/
theorem Opcode.hasPayload_iff (o : Opcode) : o.hasPayload = true ↔ o.byte ∈ [0x30#8, 0x31#8, 0x38#8, 0x39#8] := by
  cases o <;> decide

/-! ### Payload words (R115) -/

@[simp] theorem length_wordBytes (w : Word) : (wordBytes w).length = 8 := rfl

/-- Byte `j` of one payload word (R115). -/
theorem getElem?_wordBytes (w : Word) {j : Nat} (hj : j < 8) :
    (wordBytes w)[j]? = some (w.extractLsb' (56 - 8 * j) 8) := by
  have h : wordBytes w = (List.range 8).map fun r => w.extractLsb' (56 - 8 * r) 8 := rfl
  rw [h, List.getElem?_map, List.getElem?_range hj, Option.map_some]

theorem length_flatMap_wordBytes (ws : List Word) : (ws.flatMap wordBytes).length = 8 * ws.length := by
  simp [List.length_flatMap, Nat.mul_comm]

/-- Byte `j` of the payload words: byte `j mod 8` of word `j / 8` (R115). -/
theorem getElem?_flatMap_wordBytes (ws : List Word) {j : Nat} (hj : j < 8 * ws.length) :
    (ws.flatMap wordBytes)[j]? = some ((ws.getD (j / 8) 0).extractLsb' (56 - 8 * (j % 8)) 8) := by
  induction ws generalizing j with
  | nil => simp at hj
  | cons w ws ih =>
    rw [List.flatMap_cons]
    by_cases hlt : j < 8
    · rw [List.getElem?_append_left (by simpa using hlt), getElem?_wordBytes w hlt, Nat.div_eq_of_lt hlt,
        Nat.mod_eq_of_lt hlt, List.getD_cons_zero]
    · obtain ⟨k, rfl⟩ := Nat.exists_eq_add_of_le' (Nat.le_of_not_lt hlt)
      have hk : k < 8 * ws.length := by
        rw [List.length_cons] at hj
        omega
      rw [List.getElem?_append_right (by simp), length_wordBytes, Nat.add_sub_cancel, ih hk, Nat.add_div_right k (by decide),
        Nat.add_mod_right, List.getD_cons_succ]

/-- The number of payload words, from the byte of the opcode (R115). -/
theorem payloadCount_eq (w : Word) :
    payloadCount w =
      if (CmdFields.ofWord w).op ∈ [0x30#8, 0x31#8, 0x38#8, 0x39#8] then ((CmdFields.ofWord w).len.toNat + 7) / 8 else 0 := by
  unfold payloadCount
  split
  next o ho =>
    rw [Opcode.ofByte_eq_some_iff.mp ho]
    simp only [o.hasPayload_iff]
  next hnone =>
    rw [if_neg]
    intro hmem
    simp only [List.mem_cons, List.not_mem_nil, or_false] at hmem
    rcases hmem with h | h | h | h <;> rw [h] at hnone <;> cases hnone

/-- Settles O4: the bytes of the payload words one word at a time, and the count opcode by opcode. -/
theorem payloadPacking : Obligations.PayloadPacking := by
  refine ⟨fun ws n hn => ⟨?length, fun j hj => ?byte⟩, payloadCount_eq⟩
  case length => rw [unpackPayload, List.length_take, length_flatMap_wordBytes, Nat.min_eq_left hn]
  case byte => rw [unpackPayload, List.getElem?_take_of_lt hj, getElem?_flatMap_wordBytes ws (by omega)]

/-- The bytes of a packed word (R115). -/
theorem wordBytes_bytesWord (bs : List Byte) : wordBytes (bytesWord bs) = (List.range 8).map (bs.getD · 0) := by
  simp (disch := omega) only [wordBytes, bytesWord, BitVec.extractLsb'_cast, BitVec.extractLsb'_append_eq_of_le,
    BitVec.extractLsb'_append_eq_of_add_le]
  simp [List.range_succ]

/-- The bytes of a list that a packed word holds are its first eight. -/
theorem take_wordBytes_bytesWord (bs : List Byte) : (wordBytes (bytesWord bs)).take bs.length = bs.take 8 := by
  rw [wordBytes_bytesWord]
  apply List.ext_getElem
  · simp [Nat.min_comm]
  · intro j hj _
    have hlt : j < bs.length := by
      rw [List.length_take] at hj
      omega
    simp [hlt]

theorem take_flatMap_packWords (k : Nat) (bs : List Byte) (h : bs.length ≤ 8 * k) :
    ((packWords k bs).flatMap wordBytes).take bs.length = bs := by
  induction k generalizing bs with
  | zero => simp [packWords, List.eq_nil_of_length_eq_zero (Nat.le_zero.mp h)]
  | succ k ih =>
    have hrest := ih (bs.drop 8) (by rw [List.length_drop]; omega)
    rw [List.length_drop] at hrest
    rw [packWords, List.flatMap_cons, List.take_append, take_wordBytes_bytesWord, length_wordBytes, hrest,
      List.take_append_drop]

/-- The payload bytes are read back from the words they are packed in (R115). -/
@[simp] theorem unpackPayload_packPayload (bs : List Byte) : unpackPayload (packPayload bs) bs.length = bs :=
  take_flatMap_packWords _ bs (by omega)

end Sys2Proof
end

section
/-! Each row of the opcode table is read back from its words (R113 to R117, R130 to R141, R151, R152). -/

namespace Sys2Proof

open Laws.EncodedShape (shape_short shape_long left_of_and)

/-! ### Commands (R113 to R115) -/

/-- What the first two checks of R232 let through (R122). -/
theorem decodeCommand_toWord {f : CmdFields} {o : Opcode} (payload : List Byte) (ho : f.op = o.byte)
    (hz : f.unusedZero o = true) : decodeCommand f.toWord payload = .ok (f.instr payload o) := by
  simp only [decodeCommand, CmdFields.ofWord_toWord, ho, Opcode.ofByte_byte, hz, if_true]

/-- A command word with the payload words it counts. -/
theorem decode_command {f : CmdFields} {o : Opcode} {p : List Byte} (ho : f.op = o.byte) (hz : f.unusedZero o = true)
    (hshape : Laws.EncodedShape.Shape (.command (f.toWord :: packPayload p)))
    (hp : unpackPayload (packPayload p) f.len.toNat = p) :
    decode (.command (f.toWord :: packPayload p)) = .ok (f.instr p o) := by
  obtain ⟨w, rest, hws, hcount⟩ := hshape
  cases hws
  rw [decode, if_pos hcount, CmdFields.ofWord_toWord, hp, decodeCommand_toWord p ho hz]

/-- A command row without payload. -/
theorem decode_encode_short {i : Instr} {f : CmdFields} {o : Opcode} (he : encode i = .command (f.toWord :: packPayload []))
    (ho : f.op = o.byte) (hp : o.hasPayload = false) (hz : f.unusedZero o = true) (hi : f.instr [] o = i) :
    decode (encode i) = .ok i := by
  have hshape := shape_short he ho hp
  rw [he] at hshape ⊢
  rw [decode_command ho hz hshape (by simp [packPayload, packWords, unpackPayload]), hi]

/-- A command row with payload. -/
theorem decode_encode_long {i : Instr} {f : CmdFields} {o : Opcode} {p : List Byte}
    (he : encode i = .command (f.toWord :: packPayload p)) (ho : f.op = o.byte) (hp : o.hasPayload = true)
    (hl : f.len = BitVec.ofNat 8 p.length) (hz : f.unusedZero o = true) (hi : f.instr p o = i)
    (h : payloadOk p = true) : decode (encode i) = .ok i := by
  have hshape := shape_long he ho hp hl h
  have hlen : f.len.toNat = p.length := by
    have hle : p.length ≤ 255 := by simpa [payloadOk] using h
    rw [hl, BitVec.toNat_ofNat, Nat.mod_eq_of_lt (by omega)]
  rw [he] at hshape ⊢
  rw [decode_command ho hz hshape (by rw [hlen, unpackPayload_packPayload]), hi]

/-! ### Packet addresses (R131) -/

/-- The address bytes of a packet are read back (R131). -/
theorem splitAddress_addrBytes (a : Addr) (rest : List Byte) (h : packetAddrOk a = true) :
    splitAddress (addrBytes a ++ rest) = some (a, rest) := by
  have hle : a.toNat ≤ 10239 := by simpa [packetAddrOk] using h
  unfold addrBytes
  split
  next hshort =>
    have hbyte : (a.extractLsb' 0 8).toNat = a.toNat := by
      rw [BitVec.extractLsb'_toNat, Nat.shiftRight_zero, Nat.mod_eq_of_lt (by omega)]
    have hback : (a.extractLsb' 0 8).setWidth 14 = a := by
      apply BitVec.eq_of_toNat_eq
      rw [BitVec.toNat_setWidth, hbyte, Nat.mod_eq_of_lt a.isLt]
    simp only [List.cons_append, List.nil_append, splitAddress, hbyte, if_pos hshort, hback]
  next hlong =>
    have hfirst : ((0b11#2 ++ a.extractLsb' 8 6).cast (by decide) : Byte).toNat = 192 + a.toNat / 256 := by
      rw [BitVec.toNat_cast, toNat_append_eq_add, BitVec.extractLsb'_toNat, Nat.shiftRight_eq_div_pow,
        Nat.mod_eq_of_lt (by omega)]
      rfl
    have hhigh : ((0b11#2 ++ a.extractLsb' 8 6).cast (by decide) : Byte).extractLsb' 0 6 = a.extractLsb' 8 6 := by
      simp (disch := omega) only [BitVec.extractLsb'_cast, BitVec.extractLsb'_append_eq_of_add_le, BitVec.extractLsb'_eq_self]
    simp only [List.cons_append, List.nil_append, splitAddress, hfirst, hhigh, cast_extractLsb'_append]
    rw [if_neg (by omega), if_pos (by omega), if_pos (by omega)]

/-! ### Instruction bytes of packets (R134 to R141) -/

/-- The 14-step speed byte (R134). -/
theorem decodeOneByte_speed14 (a : Addr) (r c : Bool) (v : BitVec 4) (x : Byte) :
    decodeOneByte true a ((0b01#2 ++ BitVec.ofBool r ++ BitVec.ofBool c ++ v).cast (by decide)) x =
      some (.dccSpeed14 a r c v x) := by
  simp (disch := omega) only [decodeOneByte, BitVec.extractLsb'_cast, BitVec.extractLsb'_append_eq_of_le,
    BitVec.extractLsb'_append_eq_of_add_le, BitVec.getLsbD_cast, BitVec.getLsbD_append]
  simp

/-- Five bits whose lowest stands above the others are read back in order (R135, R137). -/
theorem code_of_codeByte {n : Nat} (op : BitVec n) (h : n + 1 + 4 = 8) (c : BitVec 5) :
    ((((op ++ c.extractLsb' 0 1 ++ c.extractLsb' 1 4).cast h : Byte).extractLsb' 0 4 ++
      ((op ++ c.extractLsb' 0 1 ++ c.extractLsb' 1 4).cast h : Byte).extractLsb' 4 1).cast (by decide) : BitVec 5) = c := by
  rw [BitVec.extractLsb'_cast, BitVec.extractLsb'_cast, BitVec.extractLsb'_append_eq_right,
    BitVec.extractLsb'_append_eq_of_le (Nat.le_refl 4), BitVec.extractLsb'_append_eq_right, cast_extractLsb'_append]

/-- The 28-step speed byte, whose lowest code bit stands above the others (R135). -/
theorem decodeOneByte_speed28 (a : Addr) (r : Bool) (c : BitVec 5) (x : Byte) :
    decodeOneByte false a ((0b01#2 ++ BitVec.ofBool r ++ c.extractLsb' 0 1 ++ c.extractLsb' 1 4).cast (by decide)) x =
      some (.dccSpeed28 a r c x) := by
  simp only [decodeOneByte, code_of_codeByte]
  simp (disch := omega) only [BitVec.extractLsb'_cast, BitVec.extractLsb'_append_eq_of_le, BitVec.getLsbD_cast,
    BitVec.getLsbD_append]
  simp

/-- Function group 1, F0 above F1 to F4 (R137). -/
theorem decodeOneByte_fg1 (steps14 : Bool) (a : Addr) (f : BitVec 5) (x : Byte) :
    decodeOneByte steps14 a ((0b100#3 ++ f.extractLsb' 0 1 ++ f.extractLsb' 1 4).cast (by decide)) x =
      some (.dccFg1 a f x) := by
  simp only [decodeOneByte, code_of_codeByte]
  simp (disch := omega) only [BitVec.extractLsb'_cast, BitVec.extractLsb'_append_eq_of_le]
  simp

/-- Function group 2, F5 to F8 (R138). -/
theorem decodeOneByte_fg2a (steps14 : Bool) (a : Addr) (f : BitVec 4) (x : Byte) :
    decodeOneByte steps14 a ((0b1011#4 ++ f).cast (by decide)) x = some (.dccFg2a a f x) := by
  simp (disch := omega) only [decodeOneByte, BitVec.extractLsb'_cast, BitVec.extractLsb'_append_eq_of_le,
    BitVec.extractLsb'_append_eq_of_add_le]
  simp

/-- Function group 2, F9 to F12 (R138). -/
theorem decodeOneByte_fg2b (steps14 : Bool) (a : Addr) (f : BitVec 4) (x : Byte) :
    decodeOneByte steps14 a ((0b1010#4 ++ f).cast (by decide)) x = some (.dccFg2b a f x) := by
  simp (disch := omega) only [decodeOneByte, BitVec.extractLsb'_cast, BitVec.extractLsb'_append_eq_of_le,
    BitVec.extractLsb'_append_eq_of_add_le]
  simp

/-- The 126-step speed bytes (R136). -/
theorem decodeTwoBytes_speed128 (a : Addr) (r : Bool) (v : BitVec 7) (x : Byte) :
    decodeTwoBytes a 0x3F#8 ((BitVec.ofBool r ++ v).cast (by decide)) x = some (.dccSpeed128 a r v x) := by
  simp (disch := omega) only [decodeTwoBytes, BitVec.extractLsb'_cast, BitVec.extractLsb'_append_eq_of_add_le,
    BitVec.getLsbD_cast, BitVec.getLsbD_append]
  simp

/-- Function group 5 fills the low three bits of its byte (R139). -/
theorem decodeTwoBytes_fg5 (a : Addr) (f : BitVec 3) (x : Byte) :
    decodeTwoBytes a 0xD8#8 (f.setWidth 8) x = some (.dccFg5 a f x) := by
  simp [decodeTwoBytes]

/-- A first byte of six instruction bits and the upper two of a CV index (R140, R141). -/
theorem opcode_of_cviByte (op : BitVec 6) (k : Cvi) :
    ((op ++ k.extractLsb' 8 2).cast (by decide) : Byte).extractLsb' 2 6 = op := by
  rw [BitVec.extractLsb'_cast, BitVec.extractLsb'_append_eq_left]

/-- The CV index is read back from its two bytes (R140, R141). -/
theorem cvi_of_cviBytes (op : BitVec 6) (k : Cvi) :
    ((((op ++ k.extractLsb' 8 2).cast (by decide) : Byte).extractLsb' 0 2 ++ k.extractLsb' 0 8).cast (by decide) : Cvi) = k := by
  rw [BitVec.extractLsb'_cast, BitVec.extractLsb'_append_eq_right, cast_extractLsb'_append]

/-- A POM read (R140). -/
theorem decodeThreeBytes_pomRead (a : Addr) (k : Cvi) (x : Byte) :
    decodeThreeBytes a ((0b111001#6 ++ k.extractLsb' 8 2).cast (by decide)) (k.extractLsb' 0 8) 0x00#8 x =
      some (.dccPomRead a k x) := by
  simp only [decodeThreeBytes, opcode_of_cviByte, cvi_of_cviBytes]
  rfl

/-- A POM write (R140). -/
theorem decodeThreeBytes_pomWrite (a : Addr) (k : Cvi) (d x : Byte) :
    decodeThreeBytes a ((0b111011#6 ++ k.extractLsb' 8 2).cast (by decide)) (k.extractLsb' 0 8) d x =
      some (.dccPomWrite a k d x) := by
  simp only [decodeThreeBytes, opcode_of_cviByte, cvi_of_cviBytes]
  rfl

/-- A service packet that verifies a byte (R141). -/
theorem decodeService_verifyByte (k : Cvi) (d x : Byte) :
    decodeService ((0b011101#6 ++ k.extractLsb' 8 2).cast (by decide)) (k.extractLsb' 0 8) d x =
      some (.dccSvcVerifyByte k d x) := by
  simp only [decodeService, opcode_of_cviByte, cvi_of_cviBytes]
  rfl

/-- A service packet that writes a byte (R141). -/
theorem decodeService_writeByte (k : Cvi) (d x : Byte) :
    decodeService ((0b011111#6 ++ k.extractLsb' 8 2).cast (by decide)) (k.extractLsb' 0 8) d x =
      some (.dccSvcWriteByte k d x) := by
  simp only [decodeService, opcode_of_cviByte, cvi_of_cviBytes]
  rfl

/-- A service packet that verifies a bit (R141). -/
theorem decodeService_verifyBit (k : Cvi) (v : Bool) (i : BitVec 3) (x : Byte) :
    decodeService ((0b011110#6 ++ k.extractLsb' 8 2).cast (by decide)) (k.extractLsb' 0 8)
        ((0b1110#4 ++ BitVec.ofBool v ++ i).cast (by decide)) x = some (.dccSvcVerifyBit k v i x) := by
  simp only [decodeService, opcode_of_cviByte, cvi_of_cviBytes]
  simp (disch := omega) only [BitVec.extractLsb'_cast, BitVec.extractLsb'_append_eq_of_le,
    BitVec.extractLsb'_append_eq_of_add_le, BitVec.getLsbD_cast, BitVec.getLsbD_append]
  simp

/-! ### Packets (R130, R143) -/

/-- A packet that begins with an address, outside `DCCService`: neither the idle nor the reset packet can be read so (R133). -/
theorem decodePacket_of_addressed {steps14 : Bool} {bs : List Byte} {i : Instr} (h : decodeAddressed steps14 bs = some i) :
    decodePacket { steps14 := steps14 } bs = .ok i := by
  have hidle : bs ≠ [0xFF#8, 0x00#8, 0xFF#8] := by
    rintro rfl
    cases steps14 <;> cases h
  have hreset : bs ≠ [0x00#8, 0x00#8, 0x00#8] := by
    rintro rfl
    cases steps14 <;> cases h
  simp only [decodePacket, if_neg hidle, if_neg hreset]
  split
  next j hservice => split at hservice <;> cases hservice
  next => rw [h]

/-- A service packet in `DCCService` (R141). -/
theorem decodePacket_of_service {i k d x : Byte} {r : Instr} (h : decodeService i k d x = some r) :
    decodePacket { service := true } [i, k, d, x] = .ok r := by
  simp [decodePacket, h]

/-- A packet row with an address, from how the bytes behind the address are read. -/
theorem decode_encode_addressed {r : Instr} {a : Addr} {steps14 : Bool} {tail : List Byte} {x : Byte}
    (he : encode r = .packet { steps14 := steps14 } (addrBytes a ++ tail ++ [x])) (h : addressedOk a r x = true)
    (hi : ∀ bs, splitAddress bs = some (a, tail ++ [x]) → decodeAddressed steps14 bs = some r) :
    decode (encode r) = .ok r := by
  rw [he, List.append_assoc]
  exact decodePacket_of_addressed (hi _ (splitAddress_addrBytes a _ (left_of_and h)))

/-- A packet row of an address and a one-byte instruction. -/
theorem decode_encode_oneByte {r : Instr} {a : Addr} {steps14 : Bool} {i x : Byte}
    (he : encode r = .packet { steps14 := steps14 } (addrBytes a ++ [i] ++ [x])) (h : addressedOk a r x = true)
    (hi : decodeOneByte steps14 a i x = some r) : decode (encode r) = .ok r :=
  decode_encode_addressed he h fun bs hs => by rw [decodeAddressed, hs]; exact hi

/-- A packet row of an address and a two-byte instruction. -/
theorem decode_encode_twoBytes {r : Instr} {a : Addr} {i d x : Byte}
    (he : encode r = .packet {} (addrBytes a ++ [i, d] ++ [x])) (h : addressedOk a r x = true)
    (hi : decodeTwoBytes a i d x = some r) : decode (encode r) = .ok r :=
  decode_encode_addressed he h fun bs hs => by rw [decodeAddressed, hs]; exact hi

/-- A packet row of an address and a three-byte instruction. -/
theorem decode_encode_threeBytes {r : Instr} {a : Addr} {i k d x : Byte}
    (he : encode r = .packet {} (addrBytes a ++ [i, k, d] ++ [x])) (h : addressedOk a r x = true)
    (hi : decodeThreeBytes a i k d x = some r) : decode (encode r) = .ok r :=
  decode_encode_addressed he h fun bs hs => by rw [decodeAddressed, hs]; exact hi

/-! ### Datagrams (R151, R152) -/

/-- The first symbol of a datagram holds the application id above the top bits of the value (R151). -/
theorem id_of_firstSymbol (id : BitVec 4) (v : Byte) :
    ((id ++ v.extractLsb' 6 2).cast (by decide) : BitVec 6).extractLsb' 2 4 = id := by
  rw [BitVec.extractLsb'_cast, BitVec.extractLsb'_append_eq_left]

/-- The value of a datagram is read back from its first two symbols (R151, R152). -/
theorem value_of_symbols (id : BitVec 4) (v : Byte) :
    ((((id ++ v.extractLsb' 6 2).cast (by decide) : BitVec 6).extractLsb' 0 2 ++ v.extractLsb' 0 6).cast (by decide) : Byte) =
      v := by
  rw [BitVec.extractLsb'_cast, BitVec.extractLsb'_append_eq_right, cast_extractLsb'_append]

theorem decodeDatagram_appPom (v : Byte) :
    decodeDatagram [(0#4 ++ v.extractLsb' 6 2).cast (by decide), v.extractLsb' 0 6] = .ok (.bidiAppPom v) := by
  simp only [decodeDatagram, List.map_cons, List.map_nil, datagramHead, id_of_firstSymbol, value_of_symbols, if_true,
    List.length_cons, List.length_nil]

theorem decodeDatagram_appDyn (d : Byte) (s : BitVec 6) :
    decodeDatagram [(7#4 ++ d.extractLsb' 6 2).cast (by decide), d.extractLsb' 0 6, s] = .ok (.bidiAppDyn d s) := by
  have hid : (7#4 : BitVec 4) ≠ 0#4 := by decide
  simp only [decodeDatagram, List.map_cons, List.map_nil, datagramHead, id_of_firstSymbol, value_of_symbols, if_neg hid, if_true,
    List.length_cons, List.length_nil]

/-! ### Response and event words (R116, R117) -/

/-- The fields of a response word (R116). -/
theorem responseWord_fields (st : Byte) (v : BitVec 56) :
    (responseWord st v).extractLsb' 56 8 = st ∧ (responseWord st v).extractLsb' 0 56 = v := by
  simp only [responseWord, BitVec.extractLsb'_cast]
  exact ⟨BitVec.extractLsb'_append_eq_left, BitVec.extractLsb'_append_eq_right⟩

/-- The fields of an event word (R117). -/
theorem eventWord_fields (ev : Byte) (a : Addr) (k : Cvi) (d : Byte) :
    (eventWord ev a k d).extractLsb' 56 8 = ev ∧ (eventWord ev a k d).extractLsb' 42 14 = a ∧
      (eventWord ev a k d).extractLsb' 32 10 = k ∧ (eventWord ev a k d).extractLsb' 24 8 = d ∧
      (eventWord ev a k d).extractLsb' 0 24 = 0 := by
  simp (disch := omega) only [eventWord, BitVec.extractLsb'_cast, BitVec.extractLsb'_append_eq_of_le,
    BitVec.extractLsb'_append_eq_of_add_le]
  simp

theorem decode_encode_response {st : Byte} (v : BitVec 56) (h : st.toNat ≤ 7) :
    decode (encode (.response st v)) = .ok (.response st v) := by
  obtain ⟨hst, hv⟩ := responseWord_fields st v
  simp only [encode, decode, decodeResponse, hst, hv, if_pos h]

theorem decode_encode_event {ev : Byte} (a : Addr) (k : Cvi) (d : Byte) {ext : Option (BitVec 56)}
    (h : eventOk ev ext = true) : decode (encode (.event ev a k d ext)) = .ok (.event ev a k d ext) := by
  obtain ⟨hev, ha, hk, hd, hz⟩ := eventWord_fields ev a k d
  obtain ⟨⟨hlow, hhigh⟩, hpersist⟩ : (1 ≤ ev.toNat ∧ ev.toNat ≤ 11) ∧ (ev == 9#8) = ext.isSome := by
    simpa only [eventOk, Bool.and_eq_true, decide_eq_true_eq, beq_iff_eq] using h
  cases ext with
  | none =>
    have hne : ev ≠ 9#8 := by simpa using hpersist
    simp only [encode, eventWords, decode, decodeEvent, hev, ha, hk, hd, hz]
    rw [if_pos ⟨hlow, hhigh, hne, trivial⟩]
  | some e =>
    have heq : ev = 9#8 := by simpa using hpersist
    have hsecond : ((0#8 ++ e).cast (by decide) : Word) = responseWord 0 e := rfl
    obtain ⟨h0, he⟩ := responseWord_fields 0 e
    simp only [encode, eventWords, decode, decodeEvent, hsecond, hev, ha, hk, hd, hz, h0, he]
    rw [if_pos ⟨heq, trivial, trivial⟩]

/-! ### Every row -/

/-- Settles O1, row by row: each command from its opcode, each packet from its format, then datagrams, responses and events. -/
theorem decodeEncodeRoundTrip : Obligations.DecodeEncodeRoundTrip := by
  intro i h
  cases i with
  | acquire m => exact decode_encode_short (o := .acquire) rfl rfl rfl rfl rfl
  | suspend m => exact decode_encode_short (o := .suspend) rfl rfl rfl rfl rfl
  | release m => exact decode_encode_short (o := .release) rfl rfl rfl rfl rfl
  | short => exact decode_encode_short (o := .short) rfl rfl rfl rfl rfl
  | powerOn => exact decode_encode_short (o := .powerOn) rfl rfl rfl rfl rfl
  | locoDrive a c d =>
    exact decode_encode_short (o := .locoDrive) rfl rfl rfl (by simp [CmdFields.unusedZero]) (by simp [CmdFields.instr])
  | locoFunction a n on =>
    exact decode_encode_short (o := .locoFunction) rfl rfl rfl (by simp [CmdFields.unusedZero]) (by simp [CmdFields.instr])
  | locoMode a c =>
    exact decode_encode_short (o := .locoMode) rfl rfl rfl (by simp [CmdFields.unusedZero]) (by simp [CmdFields.instr])
  | locoInfo a => exact decode_encode_short (o := .locoInfo) rfl rfl rfl rfl rfl
  | locoRailcom a => exact decode_encode_short (o := .locoRailcom) rfl rfl rfl rfl rfl
  | locoErase a => exact decode_encode_short (o := .locoErase) rfl rfl rfl rfl rfl
  | locoEraseAll => exact decode_encode_short (o := .locoEraseAll) rfl rfl rfl rfl rfl
  | cvRead k => exact decode_encode_short (o := .cvRead) rfl rfl rfl rfl rfl
  | cvWrite k d => exact decode_encode_short (o := .cvWrite) rfl rfl rfl rfl rfl
  | cvPomRead a k => exact decode_encode_short (o := .cvPomRead) rfl rfl rfl rfl rfl
  | cvPomWrite a k d => exact decode_encode_short (o := .cvPomWrite) rfl rfl rfl rfl rfl
  | sendFront p => exact decode_encode_long (o := .sendFront) rfl rfl rfl rfl rfl rfl h
  | sendBack p => exact decode_encode_long (o := .sendBack) rfl rfl rfl rfl rfl rfl h
  | decupTx p => exact decode_encode_long (o := .decupTx) rfl rfl rfl rfl rfl rfl h
  | mduTx p => exact decode_encode_long (o := .mduTx) rfl rfl rfl rfl rfl rfl h
  | cfgWrite n d => exact decode_encode_short (o := .cfgWrite) rfl rfl rfl rfl rfl
  | cfgRead n => exact decode_encode_short (o := .cfgRead) rfl rfl rfl rfl rfl
  | dccIdle => rfl
  | dccReset => rfl
  | dccSpeed14 a r c v x => exact decode_encode_oneByte rfl h (decodeOneByte_speed14 a r c v x)
  | dccSpeed28 a r c x => exact decode_encode_oneByte rfl (left_of_and h) (decodeOneByte_speed28 a r c x)
  | dccSpeed128 a r v x => exact decode_encode_twoBytes rfl h (decodeTwoBytes_speed128 a r v x)
  | dccFg1 a f x => exact decode_encode_oneByte rfl h (decodeOneByte_fg1 false a f x)
  | dccFg2a a f x => exact decode_encode_oneByte rfl h (decodeOneByte_fg2a false a f x)
  | dccFg2b a f x => exact decode_encode_oneByte rfl h (decodeOneByte_fg2b false a f x)
  | dccFg3 a f x => exact decode_encode_twoBytes rfl h rfl
  | dccFg4 a f x => exact decode_encode_twoBytes rfl h rfl
  | dccFg5 a f x => exact decode_encode_twoBytes rfl h (decodeTwoBytes_fg5 a f x)
  | dccPomRead a k x => exact decode_encode_threeBytes rfl h (decodeThreeBytes_pomRead a k x)
  | dccPomWrite a k d x => exact decode_encode_threeBytes rfl h (decodeThreeBytes_pomWrite a k d x)
  | dccSvcVerifyByte k d x => exact decodePacket_of_service (decodeService_verifyByte k d x)
  | dccSvcWriteByte k d x => exact decodePacket_of_service (decodeService_writeByte k d x)
  | dccSvcVerifyBit k v n x => exact decodePacket_of_service (decodeService_verifyBit k v n x)
  | bidiAppPom v => exact decodeDatagram_appPom v
  | bidiAppDyn d s => exact decodeDatagram_appDyn d s
  | response st v => exact decode_encode_response v (of_decide_eq_true h)
  | event ev a k d ext => exact decode_encode_event a k d h

/-- Settles O2: each word evaluates to its instruction. -/
theorem listedWordsDecode : Obligations.ListedWordsDecode :=
  ⟨rfl, rfl, rfl, rfl, rfl, rfl, rfl, rfl, rfl, rfl, rfl, rfl, rfl, rfl⟩

end Sys2Proof
end

section
/-! The values and words that answers and events carry (R116, R117, R120, R121), where they go (R200, R231), and the commands that
are answered without any other effect (R122, R232, R526). -/

namespace Sys2Proof.Machine

/-! ### The values of a loco (R120, R121) -/

/-- Settles O5: each field of the two layouts is read from its place. -/
theorem locoValueLayouts : Obligations.LocoValueLayouts := by
  intro l
  simp (disch := omega) only [locoInfoValue, locoRailcomValue, BitVec.extractLsb'_cast, BitVec.extractLsb'_append_eq_of_le,
    BitVec.extractLsb'_append_eq_of_add_le]
  simp

/-! ### Responses and events (R116, R117, R200, R231) -/

/-- HOST's answer ends its command: HOST is idle again (R231, log 17). -/
theorem respond_of_host {s : State} (h : s.issuer = .host) (st : Byte) (v : BitVec 56) :
    respond st v s =
      { s with
        hostPort := { s.hostPort with resp := s.hostPort.resp ++ [responseWord st v] }
        host := { phase := .hIdle, cmd := none, pend := none } } := by
  simp only [respond, complete, putResponse, portAnswer, h]

/-- ANALOG's command leaves its port with the answer (R200, log 3). -/
theorem respond_of_analog {s : State} (h : s.issuer = .analog) (st : Byte) (v : BitVec 56) :
    respond st v s =
      { s with
        analogPort := { cmds := dropCommand s.analogPort.cmds, resp := s.analogPort.resp ++ [responseWord st v] } } := by
  simp only [respond, complete, putResponse, portAnswer, h]

/-- EXT's command leaves its port with the answer (R200, log 3). -/
theorem respond_of_ext {s : State} (h : s.issuer = .ext) (st : Byte) (v : BitVec 56) :
    respond st v s =
      { s with extPort := { cmds := dropCommand s.extPort.cmds, resp := s.extPort.resp ++ [responseWord st v] } } := by
  simp only [respond, complete, putResponse, portAnswer, h]

/-- The row RESPONSE puts its word on the port of the issuer (R116, log 6). -/
theorem exec_response (st : Byte) (v : BitVec 56) (s : State) : exec (.response st v) s = .next (putResponse st v s) := rfl

/-- The row EVENT puts its words on the event port (R117, log 6). -/
theorem exec_event (ev : Byte) (a : Addr) (k : Cvi) (d : Byte) (ext : Option (BitVec 56)) (s : State) :
    exec (.event ev a k d ext) s = .next { s with events := s.events ++ eventWords ev a k d ext } := rfl

/-- Settles O6: the layouts of the words, then each issuer's port, then the event port. -/
theorem responsesAndEvents : Obligations.ResponsesAndEvents := by
  refine ⟨responseWord_fields, eventWord_fields, fun st v s => ⟨?host, ?analog, ?ext⟩,
    fun ev a k d x s => ⟨?one, ?two⟩⟩
  case host =>
    intro h
    refine ⟨respond_of_host h st v, ?_⟩
    simp only [exec_response, putResponse, portAnswer, h]
  case analog =>
    intro h
    refine ⟨respond_of_analog h st v, ?_⟩
    simp only [exec_response, putResponse, portAnswer, h]
  case ext =>
    intro h
    refine ⟨respond_of_ext h st v, ?_⟩
    simp only [exec_response, putResponse, portAnswer, h]
  case one => exact exec_event ev a k d none s
  case two => exact exec_event ev a k d (some x) s

/-! ### Commands turned away (R122, R232, R526) -/

/-- An unlisted `OP` is no instruction (R122 (a)). -/
theorem decodeCommand_illegal {w : Word} (payload : List Byte) (h : Opcode.ofByte (CmdFields.ofWord w).op = none) :
    decodeCommand w payload = .error .illegal := by
  simp only [decodeCommand, h]

/-- A word with a bit set that its opcode does not use is no instruction (R122 (b)). -/
theorem decodeCommand_badOperand {w : Word} {o : Opcode} (payload : List Byte)
    (ho : Opcode.ofByte (CmdFields.ofWord w).op = some o) (hz : (CmdFields.ofWord w).unusedZero o = false) :
    decodeCommand w payload = .error .badOperand := by
  simp only [decodeCommand, ho, hz, Bool.false_eq_true, if_false]

/-- The commands of ANALOG and EXT are those of the five first opcodes (R231, R526). -/
theorem arbitrationWord_eq (w : Word) :
    arbitrationWord w = decide ((CmdFields.ofWord w).op ∈ [0x01#8, 0x02#8, 0x03#8, 0x04#8, 0x05#8]) := by
  have hbyte : ∀ b : Byte, (match Opcode.ofByte b with
      | some o => o.isArbitration
      | none => false) = decide (b ∈ [0x01#8, 0x02#8, 0x03#8, 0x04#8, 0x05#8]) := by decide
  exact hbyte _

/-- HOST answers words that are no instruction by why they are none (R122, R232). -/
theorem step_host_rejected {s : State} {rest : List Move} {c : Command} {r : Reject} (hnext : NextIs s .host rest)
    (hphase : s.host.phase = .hExec) (hcmd : s.host.cmd = some c) (hr : decodeCommand c.word c.payload = .error r) :
    step s = .next (respond (rejectStatus r) 0 { took rest s with issuer := .host }) := by
  apply step_of_moveStep hnext
  have hphase' : (took rest s).host.phase = .hExec := hphase
  have hcmd' : (took rest s).host.cmd = some c := hcmd
  simp only [moveStep, hostStep, hphase', hcmd', hostExec, hr]

/-- ANALOG and EXT are answered `ILLEGAL` for every other opcode, whatever the other fields (R526, log 31). -/
theorem issuerStep_illegal {who : Issuer} {p : Port} {s : State} {c : Command} {tail : List Word}
    (hhead : headCommand p.cmds = some (c, tail)) (hw : arbitrationWord c.word = false) :
    issuerStep who p s = .run [] (respond 0x03 0 { s with issuer := who }) := by
  simp only [issuerStep, hhead, hw, Bool.false_eq_true, if_false]
  rfl

/-- ANALOG and EXT are answered `BAD_OPERAND` for an arbitration opcode with an unused bit set (R122 (b)). -/
theorem issuerStep_badOperand {who : Issuer} {p : Port} {s : State} {c : Command} {tail : List Word}
    (hhead : headCommand p.cmds = some (c, tail)) (hw : arbitrationWord c.word = true)
    (hr : decodeCommand c.word c.payload = .error .badOperand) :
    issuerStep who p s = .run [] (respond 0x04 0 { s with issuer := who }) := by
  simp only [issuerStep, hhead, hw, if_true, hr]
  rfl

/-- The move of ANALOG or of EXT is the issuer's step on its own port (R231). -/
theorem moveStep_issuer {who : Issuer} {m : Move} {p : Port} {s : State} (P : Params) (rest : List Move)
    (h : (who = .analog ∧ m = .analog ∧ p = s.analogPort) ∨ (who = .ext ∧ m = .ext ∧ p = s.extPort)) :
    moveStep P m (took rest s) = issuerStep who p (took rest s) := by
  rcases h with ⟨rfl, rfl, rfl⟩ | ⟨rfl, rfl, rfl⟩ <;> rfl

/-- A command that only HOST may issue is answered `ILLEGAL` to another issuer (R526). -/
theorem hostOnly_of_ne {s : State} (h : s.issuer ≠ .host) (k : Res) : hostOnly s k = .next (respond 0x03 0 s) :=
  if_neg h

/-- The meaning of a host-only row asks first who issues it (R526). -/
theorem exec_eq_hostOnly {i : Instr} (h : isHostOnly i = true) (s : State) : ∃ k, exec i s = hostOnly s k := by
  cases i with
  | locoDrive | locoFunction | locoMode | locoInfo | locoRailcom | locoErase | locoEraseAll | cvRead | cvWrite | cvPomRead
  | cvPomWrite | sendFront | sendBack | decupTx | mduTx | cfgWrite | cfgRead => exact ⟨_, rfl⟩
  | _ => cases h

/-- Settles O19: HOST's words that are no instruction, the words of ANALOG and EXT, and the host-only rows from another issuer. -/
theorem commandsTurnedAway : Obligations.CommandsTurnedAway := by
  refine ⟨?host, ?foreign, ?rows⟩
  case host =>
    intro s rest c hnext hphase hcmd
    exact ⟨fun h => step_host_rejected (r := .illegal) hnext hphase hcmd (decodeCommand_illegal _ h),
      fun o ho hz => step_host_rejected (r := .badOperand) hnext hphase hcmd (decodeCommand_badOperand _ ho hz)⟩
  case foreign =>
    rintro s rest who m p c tail op hwho hnext hhead rfl
    have hmove := moveStep_issuer Config.params rest hwho
    refine ⟨fun hop => step_of_moveStep hnext ?_, fun hop o ho hz => step_of_moveStep hnext ?_⟩
    · rw [hmove, issuerStep_illegal hhead (by rw [arbitrationWord_eq, decide_eq_false hop])]
    · rw [hmove, issuerStep_badOperand hhead (by rw [arbitrationWord_eq, decide_eq_true hop])
        (decodeCommand_badOperand _ ho hz)]
  case rows =>
    intro i s hi hissuer
    obtain ⟨k, hk⟩ := exec_eq_hostOnly hi s
    rw [hk, hostOnly_of_ne hissuer]

end Sys2Proof.Machine
end

section
/-! The arbitration commands, by result (R200 to R207), and what the 22 commands leave unchanged. -/

namespace Sys2Proof.Machine

/-! ### Modes and `STATE` values (R110, R111) -/

theorem driverOf_eq_decup {m : Mode} : driverOf m = .decup ↔ m = .decupZpp ∨ m = .decupZsu := by
  cases m <;> decide

theorem driverOf_eq_mdu {m : Mode} : driverOf m = .mdu ↔ m = .mduZpp ∨ m = .mduZsu := by
  cases m <;> decide

/-- The mode id is the high byte of `STATE` (R110). -/
theorem toNat_modeValue (m : Mode) : (modeValue m).toNat = m.id.toNat * 256 := by
  cases m <;> decide

theorem eq_modeValue_iff {v : BitVec 16} {m : Mode} : v = modeValue m ↔ v.toNat = m.id.toNat * 256 := by
  rw [← toNat_modeValue, BitVec.toNat_inj]

/-- The external modes are those of the ids 0x07 to 0x0C (R207). -/
theorem externalMode_eq_none {b : BitVec 8} : externalMode b = none ↔ ¬(0x07 ≤ b.toNat ∧ b.toNat ≤ 0x0C) := by
  revert b; decide

theorem ofId_of_externalMode {b : BitVec 8} {m : Mode} (h : externalMode b = some m) :
    Mode.ofId b = some m ∧ driverOf m = .ext := by
  unfold externalMode at h
  split at h
  · split at h
    · cases h; constructor <;> assumption
    · cases h
  · cases h

/-! ### The results of the arbitration commands (R201 to R207) -/

/-- An arbitration command answers `STATE` as it leaves it (R116, R200). -/
theorem answerState_eq {v : BitVec 56} {s : State} (st : Byte) (h : s.arbState.setWidth 56 = v) :
    answerState st s = .next (respond st v s) := by
  rw [answerState, h]

/-- Settles O10: a reserved id; a free `Suspended`, where the mode entry writes one resume flag; a lost `CAS`. -/
theorem acquireRule : Obligations.AcquireRule := by
  intro mode s
  refine ⟨fun hm => ?reserved, fun m hm => ⟨fun hs hd hw => ?taken, fun hs => ?lost⟩⟩
  case reserved => simp only [exec, execAcquire, hm]; rfl
  case taken =>
    have hready : acquireReady m s = true := by
      simpa [acquireReady, hd, driverOf_eq_dcc, ← or_iff_not_imp_left, imp_iff_not_or] using hw
    have hs' : s.arbState = stSuspended := hs
    simp only [exec, execAcquire, hm, if_pos hs', hready, if_true, enterMode_eq, driverOf_eq_dcc, driverOf_eq_decup,
      driverOf_eq_mdu]
    exact answerState_eq _ rfl
  case lost =>
    have hs' : s.arbState ≠ stSuspended := hs
    simp only [exec, execAcquire, hm, if_neg hs']
    rfl

/-- Settles O11: a reserved id; the mode that is held, by its id or by 0xFF; another mode; 0xFF with no mode held. -/
theorem suspendRule : Obligations.SuspendRule := by
  intro mode s
  refine ⟨fun hm hany => ?reserved, fun m hm hs => ?held, fun m hm hs => ?lost, fun hany hs => ?noMode⟩
  case reserved => simp only [exec, execSuspend, if_neg hany, hm]; rfl
  case held =>
    by_cases hany : mode = 0xFF#8
    · simp only [exec, execSuspend, if_pos hany, hs, modeOfState_modeValue]
      rfl
    · have hm' : Mode.ofId mode = some m := hm.resolve_right hany
      simp only [exec, execSuspend, if_neg hany, hm', cas, if_pos hs]
      rfl
  case lost =>
    have hany : mode ≠ 0xFF#8 := by rintro rfl; cases hm
    simp only [exec, execSuspend, if_neg hany, hm, cas, if_neg hs]
    rfl
  case noMode => simp only [exec, execSuspend, if_pos hany, hs]; rfl

/-- Settles O12: `STATE` was `ShortCircuit`, or it becomes so. -/
theorem shortRule : Obligations.ShortRule := by
  intro s
  by_cases hs : s.arbState = stShort
  · have hs' : s.arbState = 0x0004#16 := hs
    have hsame : { s with arbState := 0x0004#16 } = s := by rw [← hs']
    simp only [exec, execShort, if_pos hs, if_pos hs', hsame]
    exact answerState_eq _ (by rw [hs']; rfl)
  · have hs' : ¬s.arbState = 0x0004#16 := hs
    simp only [exec, execShort, if_neg hs, if_neg hs']
    rfl

/-- Settles O13: the mode entry once all wait; `DCCOperations` already; any other state. -/
theorem powerOnRule : Obligations.PowerOnRule := by
  intro s
  refine ⟨fun hs hq hw => ?enters, fun hs => ?already, fun hshort hsusp hops => ?lost⟩
  case enters =>
    have hs' : s.arbState = stShort ∨ s.arbState = stSuspended := hs
    simp only [exec, execPowerOn, if_pos hs', hq, hw, Bool.and_self, if_true]
    rfl
  case already =>
    have hs' : s.arbState = modeValue .dccOperations := hs
    simp only [exec, execPowerOn, hs', modeValue_ne_short, modeValue_ne_suspended, or_self, if_false, if_true]
    exact answerState_eq _ (by rw [hs]; rfl)
  case lost =>
    have hs' : ¬(s.arbState = stShort ∨ s.arbState = stSuspended) := not_or.mpr ⟨hshort, hsusp⟩
    have hops' : ¬s.arbState = modeValue .dccOperations := hops
    simp only [exec, execPowerOn, if_neg hs', if_neg hops']
    rfl

/-- Settles O14: an id that is not external; an external one, whose `STATE` value is its id shifted left by 8. -/
theorem releaseRule : Obligations.ReleaseRule := by
  intro mode s
  refine ⟨fun hb => ?notExternal, fun hlow hhigh => ?external⟩
  case notExternal =>
    simp only [exec, execRelease, externalMode_eq_none.mpr hb]
    rfl
  case external =>
    obtain ⟨m, hm⟩ : ∃ m, externalMode mode = some m :=
      Option.ne_none_iff_exists'.mp fun h => externalMode_eq_none.mp h ⟨hlow, hhigh⟩
    have hid : m.id = mode := id_of_ofId (ofId_of_externalMode hm).1
    by_cases h : s.arbState.toNat = mode.toNat * 256 ∨ (s.arbState = 0x0002#16 ∧ allQuiet s = true)
    · simp only [exec, execRelease, hm, eq_modeValue_iff, hid, stSuspend, if_pos h]
      rfl
    · simp only [exec, execRelease, hm, eq_modeValue_iff, hid, stSuspend, if_neg h]
      rfl

end Sys2Proof.Machine
end

section
/-! What the 22 commands leave unchanged (R200, R231): each command writes some of a few registers and then answers, waits, or
leaves a packet for HOST to push. -/

namespace Sys2Proof.Machine

/-! ### What a command may write -/

/-- The registers outside the ports that some command writes. -/
structure CommandRegs where
  value : BitVec 16
  dccResume : Bool
  decupResume : Bool
  mduResume : Bool
  cfg : Settings
  locos : List (Addr × Loco)
  lookups : Nat
  events : List Word
  cvsvc : List SvcReq
  cvpom : List PomReq

/-- These registers of a state. -/
def commandRegs (s : State) : CommandRegs where
  value := s.arbState
  dccResume := s.dcc.resume
  decupResume := s.decup.resume
  mduResume := s.mdu.resume
  cfg := s.cfg
  locos := s.locos
  lookups := s.lookups
  events := s.events
  cvsvc := s.cvsvc
  cvpom := s.cvpom

/-- The state with these registers written. -/
def CommandRegs.store (r : CommandRegs) (s : State) : State :=
  { s with
    arbState := r.value
    dcc := { s.dcc with resume := r.dccResume }
    decup := { s.decup with resume := r.decupResume }
    mdu := { s.mdu with resume := r.mduResume }
    cfg := r.cfg, locos := r.locos, lookups := r.lookups, events := r.events, cvsvc := r.cvsvc, cvpom := r.cvpom }

/-- The registers that the command `i` may write, from `old` to `new`. -/
structure MayWrite (i : Instr) (old new : CommandRegs) : Prop where
  arb : isArbitration i = false →
    new.value = old.value ∧ new.dccResume = old.dccResume ∧ new.decupResume = old.decupResume ∧ new.mduResume = old.mduResume
  cfg : (∀ x d, i ≠ .cfgWrite x d) → new.cfg = old.cfg
  locos : mayWriteLocos i = false → new.locos = old.locos ∧ new.lookups = old.lookups
  events : mayEmit i = false → new.events = old.events
  cvsvc : mayQueueSvc i = false → new.cvsvc = old.cvsvc
  cvpom : mayQueuePom i = false → new.cvpom = old.cvpom

theorem MayWrite.nothing (i : Instr) (r : CommandRegs) : MayWrite i r r :=
  ⟨fun _ => ⟨rfl, rfl, rfl, rfl⟩, fun _ => rfl, fun _ => ⟨rfl, rfl⟩, fun _ => rfl, fun _ => rfl, fun _ => rfl⟩

/-- What a command answers: it stores registers that it may write, and then it waits, answers its issuer, or leaves a packet to HOST,
whose command it then is. -/
inductive CommandAnswer (i : Instr) (s : State) : Res → Prop where
  | stored (r : CommandRegs) (h : MayWrite i (commandRegs s) r) : CommandAnswer i s (.next (r.store s))
  | responded (st : Byte) (v : BitVec 56) (r : CommandRegs) (h : MayWrite i (commandRegs s) r) :
      CommandAnswer i s (.next (respond st v (r.store s)))
  | left (t : Target) (bytes : List Byte) (r : CommandRegs) (h : MayWrite i (commandRegs s) r) (host : s.issuer = .host) :
      CommandAnswer i s (.next (leavePacket t bytes (r.store s)))

section
variable {i : Instr} {s : State}

/-- A command that waits. -/
theorem CommandAnswer.held : CommandAnswer i s (.next s) :=
  .stored (commandRegs s) (.nothing i _)

/-- A command that does nothing but answer. -/
theorem CommandAnswer.respondOnly (st : Byte) (v : BitVec 56) : CommandAnswer i s (.next (respond st v s)) :=
  .responded st v (commandRegs s) (.nothing i _)

theorem CommandAnswer.answer {r : CommandRegs} (st : Byte) (h : MayWrite i (commandRegs s) r) :
    CommandAnswer i s (answer st (r.store s)) :=
  .responded st 0 r h

theorem CommandAnswer.answerOnly (st : Byte) : CommandAnswer i s (Machine.answer st s) :=
  .respondOnly st 0

theorem CommandAnswer.answerState {r : CommandRegs} (st : Byte) (h : MayWrite i (commandRegs s) r) :
    CommandAnswer i s (answerState st (r.store s)) :=
  .responded st _ r h

theorem CommandAnswer.answerStateOnly (st : Byte) : CommandAnswer i s (Machine.answerState st s) :=
  .respondOnly st _

/-- A command of another issuer than HOST is turned away (R526). -/
theorem CommandAnswer.hostOnly {k : Res} (h : s.issuer = .host → CommandAnswer i s k) : CommandAnswer i s (hostOnly s k) := by
  unfold Machine.hostOnly
  split
  · rename_i hissuer
    exact h hissuer
  · exact .answerOnly _

theorem CommandAnswer.injectPacket {r : CommandRegs} (pkt : List Byte) (h : MayWrite i (commandRegs s) r)
    (host : s.issuer = .host) : CommandAnswer i s (injectPacket pkt (r.store s)) := by
  unfold Machine.injectPacket
  split
  · exact .left .frontq pkt r h host
  · exact .answer _ h

theorem CommandAnswer.sendRaw (operandOk admitted : Bool) (t : Target) (bytes : List Byte) (host : s.issuer = .host) :
    CommandAnswer i s (sendRaw operandOk admitted t bytes s) := by
  unfold Machine.sendRaw
  split
  · split
    · exact .left t bytes (commandRegs s) (.nothing i _) host
    · exact .answerOnly _
  · exact .answerOnly _

/-! ### Arbitration commands -/

/-- An arbitration command may write `STATE` and the resume flags. -/
theorem MayWrite.arbitration {old : CommandRegs} (hi : isArbitration i = true) (v : BitVec 16) (r1 r2 r3 : Bool) :
    MayWrite i old { old with value := v, dccResume := r1, decupResume := r2, mduResume := r3 } :=
  ⟨fun h => absurd (hi.symm.trans h) nofun, fun _ => rfl, fun _ => ⟨rfl, rfl⟩, fun _ => rfl, fun _ => rfl, fun _ => rfl⟩

/-- `SUSPEND` and `SHORT` emit an event too. -/
theorem MayWrite.powerOff {old : CommandRegs} (hi : isArbitration i = true) (he : mayEmit i = true) (v : BitVec 16)
    (evs : List Word) : MayWrite i old { old with value := v, events := evs } :=
  ⟨fun h => absurd (hi.symm.trans h) nofun, fun _ => rfl, fun _ => ⟨rfl, rfl⟩, fun h => absurd (he.symm.trans h) nofun,
    fun _ => rfl, fun _ => rfl⟩

theorem CommandAnswer.enterMode (hi : isArbitration i = true) (st : Byte) (m : Mode) :
    CommandAnswer i s (Machine.answerState st (enterMode m s)) := by
  rw [enterMode_eq]
  exact .answerState st (.arbitration hi (modeValue m) _ _ _)

theorem CommandAnswer.powerOff (hi : isArbitration i = true) (he : mayEmit i = true) (st : Byte) (v : BitVec 16) :
    CommandAnswer i s (Machine.answerState st (emitPowerOff { s with arbState := v })) :=
  .answerState st (.powerOff hi he v _)

end

theorem commandAnswer_acquire (mode : BitVec 8) (s : State) : CommandAnswer (.acquire mode) s (execAcquire mode s) := by
  unfold execAcquire
  split
  · exact .answerOnly _
  · split
    · split
      · exact .enterMode rfl _ _
      · exact .held
    · exact .answerStateOnly _

theorem commandAnswer_suspend (mode : BitVec 8) (s : State) : CommandAnswer (.suspend mode) s (execSuspend mode s) := by
  unfold execSuspend
  split
  · split
    · exact .powerOff rfl rfl _ _
    · exact .answerStateOnly _
  · split
    · exact .answerOnly _
    · split
      · rename_i hcas
        obtain ⟨-, rfl⟩ := cas_eq_some hcas
        exact .powerOff rfl rfl _ _
      · exact .answerStateOnly _

theorem commandAnswer_release (mode : BitVec 8) (s : State) : CommandAnswer (.release mode) s (execRelease mode s) := by
  unfold execRelease
  split
  · exact .answerOnly _
  · split
    · exact .answerState _ (.arbitration rfl stSuspended _ _ _)
    · exact .answerStateOnly _

theorem commandAnswer_short (s : State) : CommandAnswer .short s (execShort s) := by
  unfold execShort
  split
  · exact .answerStateOnly _
  · exact .powerOff rfl rfl _ _

theorem commandAnswer_powerOn (s : State) : CommandAnswer .powerOn s (execPowerOn s) := by
  unfold execPowerOn
  split
  · split
    · exact .enterMode rfl _ _
    · exact .held
  · split
    · exact .answerStateOnly _
    · exact .answerStateOnly _

/-! ### Loco commands -/

/-- A command that changes loco records may write the table and emit. -/
theorem MayWrite.loco {i : Instr} {old : CommandRegs} (hl : mayWriteLocos i = true) (he : mayEmit i = true)
    (table : List (Addr × Loco)) (n : Nat) (evs : List Word) :
    MayWrite i old { old with locos := table, lookups := n, events := evs } :=
  ⟨fun _ => ⟨rfl, rfl, rfl, rfl⟩, fun _ => rfl, fun h => absurd (hl.symm.trans h) nofun,
    fun h => absurd (he.symm.trans h) nofun, fun _ => rfl, fun _ => rfl⟩

/-- `get_or_create` writes the loco table and the count of look-ups alone (R230). -/
theorem getOrCreate_eq_some {P : Params} {a : Addr} {l : Loco} {s u : State} (h : getOrCreate P a s = some (l, u)) :
    ∃ table n, u = { s with locos := table, lookups := n } := by
  unfold getOrCreate at h
  split at h
  · cases h; exact ⟨_, _, rfl⟩
  · split at h
    · cases h; exact ⟨_, _, rfl⟩
    · cases h

/-- A changed record is stored and its packet handed over (R235). -/
theorem CommandAnswer.storeLoco {i : Instr} {s : State} (hl : mayWriteLocos i = true) (he : mayEmit i = true)
    (host : s.issuer = .host) (pkt : List Byte) (a : Addr) (l : Loco) (table : List (Addr × Loco)) (n : Nat) :
    CommandAnswer i s (Machine.injectPacket pkt (storeLoco a l { s with locos := table, lookups := n })) := by
  rw [storeLoco_eq]
  exact .injectPacket pkt (.loco hl he _ n _) host

theorem commandAnswer_locoDrive (addr : Addr) (steps : BitVec 3) (rv : Byte) (s : State) :
    CommandAnswer (.locoDrive addr steps rv) s (execLocoDrive addr steps rv s) := by
  refine .hostOnly fun host => ?_
  split
  · split
    · exact .answerOnly _
    · rename_i hget
      obtain ⟨table, n, rfl⟩ := getOrCreate_eq_some hget
      exact .storeLoco rfl rfl host _ _ _ _ _
  · exact .answerOnly _

theorem commandAnswer_locoFunction (addr : Addr) (fn : BitVec 5) (on : Bool) (s : State) :
    CommandAnswer (.locoFunction addr fn on) s (execLocoFunction addr fn on s) := by
  refine .hostOnly fun host => ?_
  split
  · split
    · exact .answerOnly _
    · rename_i hget
      obtain ⟨table, n, rfl⟩ := getOrCreate_eq_some hget
      exact .storeLoco rfl rfl host _ _ _ _ _
  · exact .answerOnly _

theorem commandAnswer_locoMode (addr : Addr) (steps : BitVec 3) (s : State) :
    CommandAnswer (.locoMode addr steps) s (execLocoMode addr steps s) := by
  refine .hostOnly fun host => ?_
  split
  · split
    · exact .answerOnly _
    · exact .storeLoco rfl rfl host _ _ _ s.locos s.lookups
  · exact .answerOnly _

theorem commandAnswer_locoInfo (addr : Addr) (s : State) : CommandAnswer (.locoInfo addr) s (execLocoInfo addr s) := by
  refine .hostOnly fun _ => ?_
  split
  · split
    · exact .answerOnly _
    · exact .respondOnly _ _
  · exact .answerOnly _

theorem commandAnswer_locoRailcom (addr : Addr) (s : State) :
    CommandAnswer (.locoRailcom addr) s (execLocoRailcom addr s) := by
  refine .hostOnly fun _ => ?_
  split
  · split
    · exact .answerOnly _
    · exact .respondOnly _ _
  · exact .answerOnly _

theorem commandAnswer_locoErase (addr : Addr) (s : State) : CommandAnswer (.locoErase addr) s (execLocoErase addr s) := by
  refine .hostOnly fun _ => ?_
  split
  · exact .answer _ (.loco rfl rfl _ s.lookups _)
  · exact .answerOnly _

theorem commandAnswer_locoEraseAll (s : State) : CommandAnswer .locoEraseAll s (execLocoEraseAll s) :=
  .hostOnly fun _ => .answer _ (.loco rfl rfl [] s.lookups _)

/-! ### CV commands -/

/-- A command that queues a service-mode request may write `CVSVC`. -/
theorem MayWrite.cvsvc_of {i : Instr} {old : CommandRegs} (hi : mayQueueSvc i = true) (q : List SvcReq) :
    MayWrite i old { old with cvsvc := q } :=
  ⟨fun _ => ⟨rfl, rfl, rfl, rfl⟩, fun _ => rfl, fun _ => ⟨rfl, rfl⟩, fun _ => rfl,
    fun h => absurd (hi.symm.trans h) nofun, fun _ => rfl⟩

/-- A command that queues a POM request may write `CVPOM`. -/
theorem MayWrite.cvpom_of {i : Instr} {old : CommandRegs} (hi : mayQueuePom i = true) (q : List PomReq) :
    MayWrite i old { old with cvpom := q } :=
  ⟨fun _ => ⟨rfl, rfl, rfl, rfl⟩, fun _ => rfl, fun _ => ⟨rfl, rfl⟩, fun _ => rfl, fun _ => rfl,
    fun h => absurd (hi.symm.trans h) nofun⟩

theorem CommandAnswer.queueSvc {i : Instr} {s : State} (hi : mayQueueSvc i = true) (P : Params) (e : SvcReq) :
    CommandAnswer i s (queueSvc P e s) := by
  unfold Machine.queueSvc
  split
  · split
    · exact .answer _ (.cvsvc_of hi _)
    · exact .answerOnly _
  · exact .answerOnly _

/-- `CV_POM_READ` looks its loco up too (R245). -/
theorem commandAnswer_cvPomRead (addr : Addr) (cvi : Cvi) (s : State) :
    CommandAnswer (.cvPomRead addr cvi) s (execCvPomRead addr cvi s) := by
  refine .hostOnly fun _ => ?_
  split
  · split
    · split
      · split
        · exact .answerOnly _
        · rename_i hget
          obtain ⟨table, n, rfl⟩ := getOrCreate_eq_some hget
          refine .answer (r := { commandRegs s with locos := table, lookups := n, cvpom := _ }) _ ?_
          exact ⟨fun _ => ⟨rfl, rfl, rfl, rfl⟩, fun _ => rfl, nofun, fun _ => rfl, fun _ => rfl, nofun⟩
      · exact .answerOnly _
    · exact .answerOnly _
  · exact .answerOnly _

theorem commandAnswer_cvPomWrite (addr : Addr) (cvi : Cvi) (data : Byte) (s : State) :
    CommandAnswer (.cvPomWrite addr cvi data) s (execCvPomWrite addr cvi data s) := by
  refine .hostOnly fun _ => ?_
  split
  · split
    · split
      · exact .answer _ (.cvpom_of rfl _)
      · exact .answerOnly _
    · exact .answerOnly _
  · exact .answerOnly _

/-! ### CSR commands -/

theorem commandAnswer_cfgWrite (index : BitVec 8) (data : Byte) (s : State) :
    CommandAnswer (.cfgWrite index data) s (execCfgWrite index data s) := by
  refine .hostOnly fun _ => ?_
  split
  · exact .answerOnly _
  · split
    · refine .answer (r := { commandRegs s with cfg := _ }) _ ?_
      exact ⟨fun _ => ⟨rfl, rfl, rfl, rfl⟩, fun h => absurd rfl (h index data), fun _ => ⟨rfl, rfl⟩, fun _ => rfl,
        fun _ => rfl, fun _ => rfl⟩
    · exact .answerOnly _

theorem commandAnswer_cfgRead (index : BitVec 8) (s : State) : CommandAnswer (.cfgRead index) s (execCfgRead index s) := by
  refine .hostOnly fun _ => ?_
  split
  · split
    · exact .respondOnly _ _
    · exact .answerOnly _
  · split
    · exact .respondOnly _ _
    · exact .answerOnly _

/-! ### Every command -/

/-- All that one of the 22 commands can do. -/
theorem commandAnswer_exec {i : Instr} (hi : isArbitration i = true ∨ isHostOnly i = true) (s : State) :
    CommandAnswer i s (exec i s) := by
  cases i with
  | acquire mode => exact commandAnswer_acquire mode s
  | suspend mode => exact commandAnswer_suspend mode s
  | release mode => exact commandAnswer_release mode s
  | short => exact commandAnswer_short s
  | powerOn => exact commandAnswer_powerOn s
  | locoDrive addr steps rv => exact commandAnswer_locoDrive addr steps rv s
  | locoFunction addr fn on => exact commandAnswer_locoFunction addr fn on s
  | locoMode addr steps => exact commandAnswer_locoMode addr steps s
  | locoInfo addr => exact commandAnswer_locoInfo addr s
  | locoRailcom addr => exact commandAnswer_locoRailcom addr s
  | locoErase addr => exact commandAnswer_locoErase addr s
  | locoEraseAll => exact commandAnswer_locoEraseAll s
  | cvRead cvi => exact .hostOnly fun _ => .queueSvc rfl _ _
  | cvWrite cvi data => exact .hostOnly fun _ => .queueSvc rfl _ _
  | cvPomRead addr cvi => exact commandAnswer_cvPomRead addr cvi s
  | cvPomWrite addr cvi data => exact commandAnswer_cvPomWrite addr cvi data s
  | sendFront bytes => exact .hostOnly (.sendRaw _ _ _ _)
  | sendBack bytes => exact .hostOnly (.sendRaw _ _ _ _)
  | decupTx bytes => exact .hostOnly (.sendRaw _ _ _ _)
  | mduTx bytes => exact .hostOnly (.sendRaw _ _ _ _)
  | cfgWrite index data => exact commandAnswer_cfgWrite index data s
  | cfgRead index => exact commandAnswer_cfgRead index s
  | _ => rcases hi with hi | hi <;> cases hi

/-! ### The frame -/

/-- What no command changes does not depend on the ports and HOST, nor on what is stored in the registers a command may write. -/
theorem commandFrame_store (r : CommandRegs) (s : State) (hp ap ep : Port) (h : HostRegs) :
    CommandFrame s { r.store s with hostPort := hp, host := h, analogPort := ap, extPort := ep } := by
  constructor <;> rfl

/-- A command changes the registers it may write and the port of its issuer; HOST's registers change by its own command alone. -/
theorem CommandAnswer.shape {i : Instr} {s t : State} (h : CommandAnswer i s (.next t)) :
    ∃ r hp ho ap ep, t = { r.store s with hostPort := hp, host := ho, analogPort := ap, extPort := ep } ∧
      MayWrite i (commandRegs s) r ∧ (s.issuer ≠ .host → hp = s.hostPort ∧ ho = s.host) ∧
      (s.issuer ≠ .analog → ap = s.analogPort) ∧ (s.issuer ≠ .ext → ep = s.extPort) := by
  cases h with
  | stored r h => exact ⟨r, _, _, _, _, rfl, h, fun _ => ⟨rfl, rfl⟩, fun _ => rfl, fun _ => rfl⟩
  | responded st v r h =>
    obtain ⟨hp, ho, ap, ep, heq, hhost, hanalog, hext⟩ := respond_frame st v (r.store s)
    exact ⟨r, hp, ho, ap, ep, heq, h, hhost, hanalog, hext⟩
  | left t bytes r h host =>
    exact ⟨r, _, _, _, _, rfl, h, fun hne => absurd host hne, fun _ => rfl, fun _ => rfl⟩

/-- Settles O33: every command has the shape above, and each clause reads one part of it. -/
theorem commandsFrame : Obligations.CommandsFrame := by
  intro i s t hi h
  obtain ⟨r, hp, ho, ap, ep, rfl, hr, hports⟩ := (h ▸ commandAnswer_exec hi s : CommandAnswer i s (.next t)).shape
  exact ⟨commandFrame_store r s hp ap ep ho, hr.arb, hr.cfg, hr.locos, hr.events, hr.cvsvc, hr.cvpom, hports⟩

end Sys2Proof.Machine
end

section
/-! The steps that run one command (R200, R231), and the idle steps of the three drivers (R213). -/

namespace Sys2Proof.Machine

/-! ### A command is run -/

/-- The step of a move that runs one instruction is the meaning of that instruction. -/
theorem step_of_moveStep_singleton {s u : State} {m : Move} {rest : List Move} {i : Instr} (h : NextIs s m rest)
    (hm : moveStep Config.params m (took rest s) = .run [i] u) : step s = exec i u := by
  rw [step_nextIs h, hm]
  exact runInstrs_singleton i u

/-- HOST runs the command it holds (R231). -/
theorem hostStep_runs {P : Params} {s : State} {c : Command} {i : Instr} (hphase : s.host.phase = .hExec)
    (hcmd : s.host.cmd = some c) (hi : decodeCommand c.word c.payload = .ok i) :
    hostStep P s = .run [i] { s with issuer := .host } := by
  simp only [hostStep, hphase, hcmd, hostExec, hi]

/-- ANALOG and EXT run the arbitration command at the head of their port (R200, R231). -/
theorem issuerStep_runs {who : Issuer} {p : Port} {s : State} {c : Command} {tail : List Word} {i : Instr}
    (hhead : headCommand p.cmds = some (c, tail)) (hw : arbitrationWord c.word = true)
    (hi : decodeCommand c.word c.payload = .ok i) : issuerStep who p s = .run [i] { s with issuer := who } := by
  simp only [issuerStep, hhead, hw, if_true, hi]

/-- Settles O7: HOST in `H_EXEC`, then ANALOG and EXT with a whole command on their port. -/
theorem stepRunsCommand : Obligations.StepRunsCommand := by
  intro s rest c i hi
  refine ⟨fun hnext hphase hcmd => ?host, fun hnext ⟨_, hhead⟩ hw => ?analog, fun hnext ⟨_, hhead⟩ hw => ?ext⟩
  case host => exact step_of_moveStep_singleton hnext (hostStep_runs (s := took rest s) hphase hcmd hi)
  case analog => exact step_of_moveStep_singleton hnext (issuerStep_runs hhead hw hi)
  case ext => exact step_of_moveStep_singleton hnext (issuerStep_runs hhead hw hi)

/-! ### The idle step of a resumed driver (R213) -/

section
variable {s : State} {m : Mode} {P : Params} {hwOk : Bool}

theorem dccIdleStep_of_mode (hm : driverOf m = .dcc) (hs : s.arbState = modeValue m) :
    dccIdleStep s = { s with dcc := { s.dcc with resume := false, mode := some m, phase := .dInit } } := by
  simp [dccIdleStep, hs, Option.filter, hm]

theorem dccIdleStep_of_suspend (hs : s.arbState = stSuspend) :
    dccIdleStep s = { clearDccQueues { s with dcc := { s.dcc with resume := false } } with arbState := stSuspended } := by
  simp [dccIdleStep, hs]

theorem dccIdleStep_of_short (hs : s.arbState = stShort) :
    dccIdleStep s = clearDccQueues { s with dcc := { s.dcc with resume := false } } := by
  simp [dccIdleStep, hs, show stShort ≠ stSuspend by decide]

theorem decupIdleStep_of_mode (hm : driverOf m = .decup) (hs : s.arbState = modeValue m) :
    decupIdleStep s = { s with decup := { s.decup with resume := false, mode := some m, phase := .uInit } } := by
  simp [decupIdleStep, hs, Option.filter, hm]

theorem decupIdleStep_of_suspend (hs : s.arbState = stSuspend) :
    decupIdleStep s =
      { clearDecupQueues { s with decup := { s.decup with resume := false } } with arbState := stSuspended } := by
  simp [decupIdleStep, hs]

theorem decupIdleStep_of_short (hs : s.arbState = stShort) :
    decupIdleStep s = clearDecupQueues { s with decup := { s.decup with resume := false } } := by
  simp [decupIdleStep, hs, show stShort ≠ stSuspend by decide]

theorem mduIdleStep_of_mode (hm : driverOf m = .mdu) (hs : s.arbState = modeValue m) :
    mduIdleStep s = { s with mdu := { s.mdu with resume := false, mode := some m, phase := .mInit } } := by
  simp [mduIdleStep, hs, Option.filter, hm]

theorem mduIdleStep_of_suspend (hs : s.arbState = stSuspend) :
    mduIdleStep s = { clearMduQueues { s with mdu := { s.mdu with resume := false } } with arbState := stSuspended } := by
  simp [mduIdleStep, hs]

theorem mduIdleStep_of_short (hs : s.arbState = stShort) :
    mduIdleStep s = clearMduQueues { s with mdu := { s.mdu with resume := false } } := by
  simp [mduIdleStep, hs, show stShort ≠ stSuspend by decide]

theorem dccMove_of_resumed (hp : s.dcc.phase = .dIdle) (hr : s.dcc.resume = true) :
    dccMove P hwOk s = .run [] (dccIdleStep s) := by
  simp [dccMove, dccTxDue, dccStep, hp, hr]

theorem decupMove_of_resumed (hp : s.decup.phase = .uIdle) (hr : s.decup.resume = true) :
    decupMove P hwOk s = decupIdleStep s := by
  simp [decupMove, decupAct, hp, hr]

theorem mduMove_of_resumed (hp : s.mdu.phase = .mIdle) (hr : s.mdu.resume = true) :
    mduMove P hwOk s = mduIdleStep s := by
  simp [mduMove, mduAct, hp, hr]

end

/-- Settles O42: for each driver the move is its idle step, which its mode, `Suspend` and `ShortCircuit` decide. -/
theorem driverIdleStep : Obligations.DriverIdleStep := by
  intro s rest ok
  refine ⟨fun hnext hp hr => ?dcc, fun hnext hp hr => ?decup, fun hnext hp hr => ?mdu⟩
  case dcc =>
    have hstep : step s = .next (dccIdleStep (took rest s)) :=
      step_of_moveStep hnext (dccMove_of_resumed (s := took rest s) hp hr)
    exact ⟨fun m hm hs => hstep.trans (congrArg _ (dccIdleStep_of_mode (s := took rest s) (driverOf_eq_dcc.mpr hm) hs)),
      fun hs => hstep.trans (congrArg _ (dccIdleStep_of_suspend (s := took rest s) hs)),
      fun hs => hstep.trans (congrArg _ (dccIdleStep_of_short (s := took rest s) hs))⟩
  case decup =>
    have hstep : step s = .next (decupIdleStep (took rest s)) :=
      step_of_moveStep hnext (congrArg (Advance.run []) (decupMove_of_resumed (s := took rest s) hp hr))
    exact ⟨fun m hm hs => hstep.trans (congrArg _ (decupIdleStep_of_mode (s := took rest s) (driverOf_eq_decup.mpr hm) hs)),
      fun hs => hstep.trans (congrArg _ (decupIdleStep_of_suspend (s := took rest s) hs)),
      fun hs => hstep.trans (congrArg _ (decupIdleStep_of_short (s := took rest s) hs))⟩
  case mdu =>
    have hstep : step s = .next (mduIdleStep (took rest s)) :=
      step_of_moveStep hnext (congrArg (Advance.run []) (mduMove_of_resumed (s := took rest s) hp hr))
    exact ⟨fun m hm hs => hstep.trans (congrArg _ (mduIdleStep_of_mode (s := took rest s) (driverOf_eq_mdu.mpr hm) hs)),
      fun hs => hstep.trans (congrArg _ (mduIdleStep_of_suspend (s := took rest s) hs)),
      fun hs => hstep.trans (congrArg _ (mduIdleStep_of_short (s := took rest s) hs))⟩

end Sys2Proof.Machine
end

section
/-! The arbitration invariant read clause by clause (R211), and what it says of the three drivers. -/

namespace Sys2Proof.Machine

/-! ### One driver -/

/-- The invariant of one driver as three implications (R211 (c)). -/
theorem driverInv_iff {d : Driver} {x : DriverView} {v : BitVec 16} :
    driverInv d x v = true ↔
      (x.engaged = true → v = stSuspend ∨ v = stShort ∨
        (stateOwnedBy d v = true ∧ (x.idle = false → x.mode = modeOfState v))) ∧
      (x.idle = false → x.resume = false ∧ x.mode.map driverOf = some d) ∧
      (stateOwnedBy d v = true → x.engaged = true) := by
  simp only [driverInv, engagedState, Bool.and_eq_true, Bool.or_eq_true, Bool.not_eq_true', beq_iff_eq,
    or_iff_not_imp_left, Classical.not_imp, and_imp, Bool.not_eq_false, Bool.not_eq_true, and_assoc]

theorem stateOwnedBy_iff {d : Driver} {v : BitVec 16} :
    stateOwnedBy d v = true ↔ ∃ m, v = modeValue m ∧ driverOf m = d := by
  constructor
  · intro h
    unfold stateOwnedBy at h
    split at h
    · rename_i m hm
      exact ⟨m, eq_modeValue_of_modeOfState hm, of_decide_eq_true h⟩
    · cases h
  · rintro ⟨m, rfl, hm⟩
    simpa using hm

section
variable {d : Driver} {x : DriverView} {v : BitVec 16}

/-- While a driver is engaged `STATE` is `Suspend`, `ShortCircuit` or a mode of its own, the one it runs in (R211 (c)). -/
theorem driverInv_engaged (h : driverInv d x v = true) (he : x.engaged = true) :
    v = stSuspend ∨ v = stShort ∨ ∃ m, v = modeValue m ∧ driverOf m = d ∧ (x.idle = false → x.mode = some m) := by
  rcases (driverInv_iff.mp h).1 he with hv | hv | ⟨hown, hmode⟩
  · exact .inl hv
  · exact .inr (.inl hv)
  · obtain ⟨m, rfl, hm⟩ := stateOwnedBy_iff.mp hown
    exact .inr (.inr ⟨m, rfl, hm, by simpa using hmode⟩)

theorem engaged_of_running (hi : x.idle = false) : x.engaged = true := by simp [DriverView.engaged, hi]

theorem engaged_of_resume (hr : x.resume = true) : x.engaged = true := by simp [DriverView.engaged, hr]

/-- While a driver runs `STATE` is `Suspend`, `ShortCircuit` or its mode (R211 (c)). -/
theorem driverInv_running (h : driverInv d x v = true) (hi : x.idle = false) :
    v = stSuspend ∨ v = stShort ∨ ∃ m, v = modeValue m ∧ driverOf m = d ∧ x.mode = some m := by
  simpa [hi] using driverInv_engaged h (engaged_of_running hi)

/-- A driver that runs is not resumed. -/
theorem resume_of_running (h : driverInv d x v = true) (hi : x.idle = false) : x.resume = false :=
  ((driverInv_iff.mp h).2.1 hi).1

/-- A running driver that need not tear down has the mode that `STATE` holds (R353, R403, R433). -/
theorem mode_of_running (h : driverInv d x v = true) (hi : x.idle = false) (hv : ¬(v = stSuspend ∨ v = stShort)) :
    x.mode.map modeValue = some v := by
  rcases driverInv_running h hi with hs | hs | ⟨m, rfl, -, hm⟩
  · exact absurd (.inl hs) hv
  · exact absurd (.inr hs) hv
  · rw [hm]; rfl

/-- The terminal write of a running driver has a value: `Suspended` or `ShortCircuit` (R208). -/
theorem terminalValue_of_running (h : driverInv d x v = true) (hi : x.idle = false) :
    ∃ w, terminalValue x.mode v = some w ∧ (w = stSuspended ∨ w = stShort) ∧
      (w = stShort ∨ v = stSuspend ∨ stateOwnedBy d v = true) := by
  rcases driverInv_running h hi with rfl | rfl | ⟨m, rfl, hd, hm⟩
  · exact ⟨stSuspended, by simp [terminalValue], by simp⟩
  · refine ⟨stShort, ?_, by simp⟩
    have hne : ∀ m : Mode, modeValue m ≠ stShort := modeValue_ne_short
    simp [terminalValue, show stShort ≠ stSuspend by decide, hne]
  · exact ⟨stSuspended, by simp [terminalValue, hm], by simp [hd]⟩

end

/-! ### The three drivers of a state -/

/-- The clauses of the invariant that speak of one driver each, and of DCCDRV's teardown. -/
structure ArbClauses (s : State) : Prop where
  legal : stateLegal s.arbState = true
  dcc : driverInv .dcc (arbView s).dcc s.arbState = true
  decup : driverInv .decup (arbView s).decup s.arbState = true
  mdu : driverInv .mdu (arbView s).mdu s.arbState = true
  leaves : s.dcc.phase = .dTeardown → s.arbState = stSuspend ∨ s.arbState = stShort

theorem ArbInv.clauses {s : State} (h : ArbInv s) : ArbClauses s := by
  obtain ⟨hleave, hlegal, hdcc, hdecup, hmdu, -⟩ := arbViewInv_iff.mp h
  refine ⟨hlegal, hdcc, hdecup, hmdu, fun hp => ?_⟩
  simpa [leaveInv, arbView, hp] using hleave

/-- `STATE` is one of its 15 values (R110, R211 (a)). -/
theorem stateLegal_iff {v : BitVec 16} :
    stateLegal v = true ↔ v = stSuspended ∨ v = stSuspend ∨ v = stShort ∨ ∃ m, v = modeValue m := by
  have hmode : (modeOfState v).isSome = true ↔ ∃ m, v = modeValue m :=
    ⟨fun h => (Option.isSome_iff_exists.mp h).imp fun _ => eq_modeValue_of_modeOfState, by rintro ⟨m, rfl⟩; simp⟩
  simp only [stateLegal, Bool.or_eq_true, beq_iff_eq, hmode, or_assoc]

/-- What the invariant says of a driver that runs, in the form of R211 (c). -/
theorem running_clause {d : Driver} {x : DriverView} {v : BitVec 16} (h : driverInv d x v = true) (hi : x.idle = false) :
    v = stSuspend ∨ v = stShort ∨ ∃ m, x.mode = some m ∧ v = modeValue m := by
  rcases driverInv_running h hi with hv | hv | ⟨m, hv, -, hm⟩
  · exact .inl hv
  · exact .inr (.inl hv)
  · exact .inr (.inr ⟨m, hm, hv⟩)

/-- Settles O17: the clauses of the invariant one by one; a driver that is not idle runs. -/
theorem arbInvMeansR211 : Obligations.ArbInvMeansR211 := by
  intro s hs
  have h := hs.clauses
  refine ⟨stateLegal_iff.mp h.legal, fun hv => ?suspended, fun hp _ => ?dcc, fun hp _ => ?decup, fun hp _ => ?mdu⟩
  case suspended =>
    have hquiet := quietView_of_suspended hs hv
    simp only [quietView, DriverView.engaged, arbView, Bool.and_eq_true, Bool.not_eq_true', Bool.or_eq_false_iff,
      Bool.not_eq_false', decide_eq_true_eq] at hquiet
    obtain ⟨⟨⟨hdcc, -⟩, hdecup, -⟩, hmdu, -⟩ := hquiet
    exact ⟨hdcc, hdecup, hmdu⟩
  case dcc => exact running_clause h.dcc (by simp [arbView, hp])
  case decup => exact running_clause h.decup (by simp [arbView, hp])
  case mdu => exact running_clause h.mdu (by simp [arbView, hp])

end Sys2Proof.Machine
end

section
/-! Steps that arbitration does not see, and the steps that write `STATE`: what each keeps (R208 to R213, R503). -/

namespace Sys2Proof.Machine

/-! ### Steps as arbitration sees them -/

/-- `t` is `s` to arbitration, and a fault that is new in `t` is of another class than `ARB_INVARIANT`. -/
structure ArbKept (s t : State) : Prop where
  view : arbView t = arbView s
  fault : ∀ r, t.fatal = some r → s.fatal = some r ∨ r.cls ≠ .arbInvariant

/-- From `s` to `t` in agreement with R210, R211 and R503: the invariant holds in `t`, `STATE` changes by a row of the table, and a
fault that is new is of another class than `ARB_INVARIANT`. -/
structure ArbStep (s t : State) : Prop where
  inv : ArbInv t
  change : arbTransition s.arbState t.arbState = true
  fault : ∀ r, t.fatal = some r → s.fatal = some r ∨ r.cls ≠ .arbInvariant

section
variable {s t u : State}

theorem ArbKept.same (hv : arbView t = arbView s) (hf : t.fatal = s.fatal) : ArbKept s t :=
  ⟨hv, fun _ hr => .inl (hf ▸ hr)⟩

theorem ArbKept.refl (s : State) : ArbKept s s := .same rfl rfl

theorem ArbKept.trans (h : ArbKept s u) (h' : ArbKept u t) : ArbKept s t :=
  ⟨h'.view.trans h.view, fun r hr => (h'.fault r hr).elim (h.fault r) .inr⟩

/-- A change that arbitration does not see, before one. -/
theorem ArbKept.otherBefore (h : ArbKept u t) (hv : arbView u = arbView s) (hf : u.fatal = s.fatal) : ArbKept s t :=
  (ArbKept.same hv hf).trans h

theorem ArbKept.raise {cls : FaultClass} (agent : Agent) (p : PhaseName) (s : State) (h : cls ≠ .arbInvariant) :
    ArbKept s (raiseFault cls agent p s) :=
  ⟨rfl, fun r hr => .inr (by cases hr; exact h)⟩

theorem arbKept_respond (st : Byte) (v : BitVec 56) (s : State) : ArbKept s (respond st v s) :=
  .same (by simp) (by simp)

/-- A change among the phases in which DCCDRV runs and does not leave. -/
theorem ArbKept.dccRuns (hi : s.dcc.phase ≠ .dIdle) (hl : s.dcc.phase ≠ .dTeardown)
    (hv : arbView t = { arbView s with dcc := ⟨false, s.dcc.resume, s.dcc.mode⟩, dccLeaves := false })
    (hf : t.fatal = s.fatal) : ArbKept s t :=
  .same (hv.trans (by simp [arbView, hi, hl])) hf

/-- A change among the phases in which DECUPDRV runs. -/
theorem ArbKept.decupRuns (hi : s.decup.phase ≠ .uIdle)
    (hv : arbView t = { arbView s with decup := ⟨false, s.decup.resume, s.decup.mode⟩ })
    (hf : t.fatal = s.fatal) : ArbKept s t :=
  .same (hv.trans (by simp [arbView, hi])) hf

/-- A change among the phases in which MDUDRV runs. -/
theorem ArbKept.mduRuns (hi : s.mdu.phase ≠ .mIdle)
    (hv : arbView t = { arbView s with mdu := ⟨false, s.mdu.resume, s.mdu.mode⟩ })
    (hf : t.fatal = s.fatal) : ArbKept s t :=
  .same (hv.trans (by simp [arbView, hi])) hf

theorem ArbKept.arbState (h : ArbKept s t) : t.arbState = s.arbState :=
  congrArg ArbView.value h.view

theorem ArbKept.inv (h : ArbKept s t) (hs : ArbInv s) : ArbInv t :=
  (congrArg (arbViewInv · = true) h.view).mpr hs

theorem arbTransition_refl (v : BitVec 16) : arbTransition v v = true := by simp [arbTransition]

theorem ArbKept.step (h : ArbKept s t) (hs : ArbInv s) : ArbStep s t :=
  ⟨h.inv hs, by rw [h.arbState]; exact arbTransition_refl _, h.fault⟩

theorem ArbStep.after (h : ArbStep u t) (hu : ArbKept s u) : ArbStep s t :=
  ⟨h.inv, hu.arbState ▸ h.change, fun r hr => (h.fault r hr).elim (hu.fault r) .inr⟩

theorem ArbStep.before (h : ArbStep s u) (ht : ArbKept u t) : ArbStep s t :=
  ⟨ht.inv h.inv, ht.arbState ▸ h.change, fun r hr => (ht.fault r hr).elim (h.fault r) .inr⟩

/-- A step without a fault, by what arbitration sees of its end. -/
theorem ArbStep.of_view {w : ArbView} (hv : arbView t = w) (hw : arbViewInv w = true)
    (hc : arbTransition s.arbState w.value = true) (hf : t.fatal = s.fatal) : ArbStep s t where
  inv := (congrArg (arbViewInv · = true) hv).mpr hw
  change := by rw [← hv] at hc; exact hc
  fault _ hr := .inl (hf ▸ hr)

/-! ### The writes of `STATE` by commands and by SCHED -/

/-- A mode is given up for `Suspend` (R202, R262, R280). -/
theorem arbStep_suspend {m : Mode} (hs : ArbInv s) (hv : s.arbState = modeValue m) :
    ArbStep s { s with arbState := stSuspend } :=
  .of_view (w := { arbView s with value := stSuspend }) rfl (arbViewInv_suspend hs) (by simp [arbTransition, hv]) rfl

/-- `ShortCircuit` is stored from any value (R204). -/
theorem arbStep_short (hs : ArbInv s) : ArbStep s { s with arbState := stShort } :=
  .of_view (w := { arbView s with value := stShort }) rfl (arbViewInv_short hs) (by simp [arbTransition]) rfl

theorem quietView_of_allQuiet (h : allQuiet s = true) : quietView (arbView s) = true := by
  simpa [allQuiet, driverQuiet, quietView, DriverView.engaged, arbView] using h

/-- `RELEASE` of the external mode that is held, or of a suspended one (R207). -/
theorem arbStep_release {m : Mode} (hs : ArbInv s) (hm : driverOf m = .ext)
    (hv : s.arbState = modeValue m ∨ (s.arbState = stSuspend ∧ allQuiet s = true)) :
    ArbStep s { s with arbState := stSuspended } := by
  have hquiet : quietView (arbView s) = true := by
    rcases hv with hv | ⟨-, hq⟩
    · exact quietView_of_ext hs hv hm
    · exact quietView_of_allQuiet hq
  refine .of_view (w := { arbView s with value := stSuspended }) rfl
    (arbViewInv_suspended_of_quiet hquiet (dccLeaves_of_quiet hs hquiet)) ?_ rfl
  rcases hv with hv | ⟨hv, -⟩ <;> simp [arbTransition, hv, hm]

/-- A mode entry from `Suspended`, or of `DCCOperations` from `ShortCircuit` once all drivers are quiet (R201, R205, R209). -/
theorem arbStep_enterMode {m : Mode} (hs : ArbInv s)
    (hv : s.arbState = stSuspended ∨ (s.arbState = stShort ∧ m = .dccOperations ∧ allQuiet s = true)) :
    ArbStep s (enterMode m s) := by
  have hquiet : quietView (arbView s) = true := by
    rcases hv with hv | ⟨-, -, hq⟩
    · exact quietView_of_suspended hs hv
    · exact quietView_of_allQuiet hq
  have hvalue : (enterMode m s).arbState = modeValue m := by rw [enterMode_eq]
  have hfatal : (enterMode m s).fatal = s.fatal := by rw [enterMode_eq]
  refine .of_view rfl ?_ ?_ hfatal
  · rw [arbView_enterMode]
    exact arbViewInv_resumeView m hquiet (dccLeaves_of_quiet hs hquiet)
  · change arbTransition s.arbState (enterMode m s).arbState = true
    rw [hvalue]
    rcases hv with hv | ⟨hv, rfl, -⟩ <;> simp [arbTransition, hv]

end

/-! ### Instructions -/

/-- Every next state that an instruction answers is reached by a step of arbitration. -/
def ArbAnswers (s : State) (r : Res) : Prop :=
  ∀ t, r = .next t → ArbStep s t

section
variable {s u : State}

theorem ArbAnswers.next (h : ArbStep s u) : ArbAnswers s (.next u) := by
  rintro _ ⟨⟩
  exact h

theorem ArbAnswers.answer (h : ArbStep s u) (st : Byte) : ArbAnswers s (answer st u) :=
  .next (h.before (arbKept_respond st 0 u))

theorem ArbAnswers.answerState (h : ArbStep s u) (st : Byte) : ArbAnswers s (answerState st u) :=
  .next (h.before (arbKept_respond st _ u))

theorem ArbStep.refl (hs : ArbInv s) : ArbStep s s := (ArbKept.refl s).step hs

theorem ArbStep.raise {cls : FaultClass} {agent : Agent} {p : PhaseName} (hs : ArbInv s) (h : cls ≠ .arbInvariant) :
    ArbStep s (raiseFault cls agent p s) :=
  (ArbKept.raise agent p s h).step hs

theorem ArbStep.powerOff (h : ArbStep s u) : ArbStep s (emitPowerOff u) := h.before (.same rfl rfl)

end

theorem arbAnswers_acquire (mode : BitVec 8) {s : State} (hs : ArbInv s) : ArbAnswers s (execAcquire mode s) := by
  unfold execAcquire
  split
  · exact .answer (.refl hs) _
  · split
    · rename_i hv
      split
      · exact .answerState (arbStep_enterMode hs (.inl hv)) _
      · exact .next (.refl hs)
    · exact .answerState (.refl hs) _

theorem arbAnswers_suspend (mode : BitVec 8) {s : State} (hs : ArbInv s) : ArbAnswers s (execSuspend mode s) := by
  unfold execSuspend
  split
  · split
    · rename_i m hm
      exact .answerState (arbStep_suspend hs (eq_modeValue_of_modeOfState hm)).powerOff _
    · exact .answerState (.refl hs) _
  · split
    · exact .answer (.refl hs) _
    · split
      · rename_i hcas
        obtain ⟨hv, rfl⟩ := cas_eq_some hcas
        exact .answerState (arbStep_suspend hs hv).powerOff _
      · exact .answerState (.refl hs) _

theorem arbAnswers_release (mode : BitVec 8) {s : State} (hs : ArbInv s) : ArbAnswers s (execRelease mode s) := by
  unfold execRelease
  split
  · exact .answer (.refl hs) _
  · rename_i m hm
    split
    · rename_i hv
      exact .answerState (arbStep_release hs (ofId_of_externalMode hm).2 hv) _
    · exact .answerState (.refl hs) _

theorem arbAnswers_short {s : State} (hs : ArbInv s) : ArbAnswers s (execShort s) := by
  unfold execShort
  split
  · exact .answerState (.refl hs) _
  · exact .answerState (arbStep_short hs).powerOff _

theorem arbAnswers_powerOn {s : State} (hs : ArbInv s) : ArbAnswers s (execPowerOn s) := by
  unfold execPowerOn
  split
  · rename_i hv
    split
    · rename_i hready
      obtain ⟨hq, -⟩ := Bool.and_eq_true_iff.mp hready
      exact .answerState (arbStep_enterMode hs (hv.symm.imp id fun h => ⟨h, rfl, hq⟩)) _
    · exact .next (.refl hs)
  · split
    · exact .answerState (.refl hs) _
    · exact .answerState (.refl hs) _

/-- A host-only command is not seen by arbitration: it is part of its frame (R231). -/
theorem arbKept_hostOnly {i : Instr} {s t : State} (hi : isHostOnly i = true) (h : exec i s = .next t) : ArbKept s t := by
  obtain ⟨hframe, harb, -⟩ := commandsFrame i s t (.inr hi) h
  have hnot : isArbitration i = false := by
    cases i with
    | acquire | suspend | release | short | powerOn => cases hi
    | _ => rfl
  obtain ⟨hv, hdcc, hdecup, hmdu⟩ := harb hnot
  have hdcc' : t.dcc = s.dcc := by rw [← hframe.dcc, ← hdcc]
  have hdecup' : t.decup = s.decup := by rw [← hframe.decup, ← hdecup]
  have hmdu' : t.mdu = s.mdu := by rw [← hframe.mdu, ← hmdu]
  exact .same (by simp only [arbView, hv, hdcc', hdecup', hmdu']) hframe.fatal

/-- A transmission goes on in DCCDRV's running phases (R354). -/
theorem arbKept_transmitPacket (P : Params) (bytes : List Byte) (s : State) : ArbKept s (transmitPacket P bytes s) := by
  rcases transmitPacket_cases P bytes s with ⟨m, t, hphase, -, -, h⟩ | h | h <;> rw [h]
  · exact .dccRuns (by simp [hphase]) (by simp [hphase]) rfl rfl
  · exact .raise _ _ _ nofun
  · exact .refl s

theorem arbKept_bidiAppPom {value : Byte} {s t : State} (h : execBidiAppPom value s = .next t) : ArbKept s t := by
  unfold execBidiAppPom at h
  split at h
  · cases h; exact .refl s
  · split at h <;> cases h <;> exact .same rfl rfl

theorem arbKept_bidiAppDyn {dv : Byte} {subindex : BitVec 6} {s t : State} (h : execBidiAppDyn dv subindex s = .next t) :
    ArbKept s t := by
  unfold execBidiAppDyn at h
  split at h
  · cases h; exact .refl s
  · split at h
    · cases h; exact .refl s
    · split at h <;> cases h <;> exact .same rfl rfl

theorem arbKept_putResponse (status : Byte) (value : BitVec 56) (s : State) : ArbKept s (putResponse status value s) := by
  unfold putResponse
  split <;> exact .same rfl rfl

/-- A packet row is a transmission (R354, log 5). -/
theorem exec_packetRow {i : Instr} (h : isPacketRow i = true) (s : State) :
    exec i s = .next (transmitPacket Config.params (packetBytes i) s) := by
  cases i with
  | dccIdle | dccReset | dccSpeed14 | dccSpeed28 | dccSpeed128 | dccFg1 | dccFg2a | dccFg2b | dccFg3 | dccFg4 | dccFg5
  | dccPomRead | dccPomWrite | dccSvcVerifyByte | dccSvcWriteByte | dccSvcVerifyBit => rfl
  | _ => cases h

/-- Every instruction is a step of arbitration; only the five arbitration commands are seen by it. -/
theorem arbAnswers_exec (i : Instr) {s : State} (hs : ArbInv s) : ArbAnswers s (exec i s) := by
  cases i with
  | acquire mode => exact arbAnswers_acquire mode hs
  | suspend mode => exact arbAnswers_suspend mode hs
  | release mode => exact arbAnswers_release mode hs
  | short => exact arbAnswers_short hs
  | powerOn => exact arbAnswers_powerOn hs
  | bidiAppPom value => exact fun t h => (arbKept_bidiAppPom h).step hs
  | bidiAppDyn dv subindex => exact fun t h => (arbKept_bidiAppDyn h).step hs
  | response status value => exact .next ((arbKept_putResponse status value s).step hs)
  | event ev addr cvi data ext => exact .next (ArbKept.step (.same rfl rfl) hs)
  | locoDrive | locoFunction | locoMode | locoInfo | locoRailcom | locoErase | locoEraseAll | cvRead | cvWrite | cvPomRead
  | cvPomWrite | sendFront | sendBack | decupTx | mduTx | cfgWrite | cfgRead =>
    exact fun t h => (arbKept_hostOnly rfl h).step hs
  | _ =>
    rw [exec_packetRow rfl]
    exact .next ((arbKept_transmitPacket _ _ s).step hs)

end Sys2Proof.Machine
end

section
/-! The steps of SCHED and DCCDRV as arbitration sees them. SCHED writes `STATE` at its switches alone, a driver in its idle step and
in its teardown (R208, R212, R213); every other step leaves `STATE` and what arbitration sees of the drivers. -/

namespace Sys2Proof.Machine

/-! ### SCHED outside its switches (R252 to R290) -/

theorem arbKept_abandon (s : State) : ArbKept s (abandon s) := by
  unfold abandon
  rw [nackAll_eq]
  exact .same rfl rfl

theorem arbKept_schedFault (s : State) : ArbKept s (schedFault s) :=
  .raise _ _ _ nofun

theorem arbKept_schedIdle (s : State) : ArbKept s (schedIdle s) := by
  unfold schedIdle
  split
  · exact .same rfl rfl
  · split
    · exact .same rfl rfl
    · exact .refl s

theorem arbKept_opsStart (P : Params) (s : State) : ArbKept s (opsStart P s) := by
  unfold opsStart
  split
  · exact .same rfl rfl
  · split <;> exact .same rfl rfl

theorem arbKept_opsIdleFill (P : Params) (s : State) : ArbKept s (opsIdleFill P s) := by
  unfold opsIdleFill
  split <;> exact .same rfl rfl

theorem arbKept_advanceLoco (a : Addr) (s : State) : ArbKept s (advanceLoco a s) := by
  unfold advanceLoco
  split <;> exact .same rfl rfl

theorem arbKept_opsLoco (P : Params) (a : Addr) (s : State) : ArbKept s (opsLoco P a s) := by
  unfold opsLoco
  split
  · exact arbKept_advanceLoco a s
  · split
    · exact arbKept_advanceLoco a s
    · split
      · exact .same rfl rfl
      · split
        · exact .refl s
        · dsimp only
          split
          · exact (arbKept_advanceLoco a _).otherBefore rfl rfl
          · exact .same rfl rfl

theorem arbKept_opsPassEnd (P : Params) (s : State) : ArbKept s (opsPassEnd P s) := by
  unfold opsPassEnd
  dsimp only
  split <;> exact .same rfl rfl

theorem arbKept_opsSvc (s : State) : ArbKept s (opsSvc s) := by
  unfold opsSvc
  split
  · exact .same rfl rfl
  · split
    · split <;> exact .same rfl rfl
    · exact .same rfl rfl

theorem arbKept_opsPom (P : Params) (s : State) : ArbKept s (opsPom P s) := by
  unfold opsPom
  split
  · exact .refl s
  · split
    · split
      · exact .same rfl rfl
      · exact .refl s
    · exact .same rfl rfl

theorem arbKept_svcEntry (s : State) : ArbKept s (svcEntry s) := by
  unfold svcEntry
  split
  · exact .same rfl rfl
  · exact .refl s

theorem arbKept_svcStartReset (P : Params) (s : State) : ArbKept s (svcStartReset P s) := by
  unfold svcStartReset
  split
  · exact arbKept_schedFault s
  · split
    · split
      · exact .same rfl rfl
      · exact .refl s
    · exact .same rfl rfl

theorem arbKept_svcNext (s : State) : ArbKept s (svcNext s) := by
  unfold svcNext
  split <;> exact .same rfl rfl

theorem arbKept_svcRun (P : Params) (s : State) : ArbKept s (svcRun P s) := by
  unfold svcRun
  split
  · exact .refl s
  · split
    · exact .same rfl rfl
    · split
      · exact arbKept_schedFault s
      · split <;> exact .same rfl rfl

theorem arbKept_attProgDone (nc : Nat) (s : State) : ArbKept s (attProgDone nc s) := by
  unfold attProgDone
  split <;> exact .same rfl rfl

theorem arbKept_attProg (P : Params) (s : State) : ArbKept s (attProg P s) := by
  unfold attProg
  split
  · split
    · split
      · dsimp only
        split
        · exact (arbKept_attProgDone _ _).otherBefore rfl rfl
        · exact .same rfl rfl
      · exact .refl s
    · exact arbKept_attProgDone _ s
  · exact .refl s
  · exact arbKept_schedFault s

theorem arbKept_attReset (P : Params) (s : State) : ArbKept s (attReset P s) := by
  unfold attReset
  split
  · exact arbKept_schedFault s
  · split
    · split
      · dsimp only
        split <;> exact .same rfl rfl
      · exact .refl s
    · exact .same rfl rfl

theorem arbKept_finishRequest (e : SvcReq) (result : Option Byte) (s : State) : ArbKept s (finishRequest e result s) := by
  cases result <;> exact .same rfl rfl

theorem arbKept_algorithmStep {P : Params} {e : SvcReq} {a : Bool} {s t : State} {alg : SvcAlg}
    (h : algorithmStep P e a s alg = some t) : ArbKept s t := by
  cases alg with
  | byte =>
    simp only [algorithmStep] at h
    split at h
    · cases h; exact arbKept_finishRequest e _ s
    · split at h
      · cases h; exact arbKept_finishRequest e _ s
      · cases h; exact .same rfl rfl
  | bit =>
    simp only [algorithmStep] at h
    split at h
    · cases h; exact .same rfl rfl
    · split at h
      · cases h
      · split at h
        · cases h; exact (arbKept_finishRequest e _ _).otherBefore rfl rfl
        · cases h; exact .same rfl rfl
  | confirm => cases h; exact arbKept_finishRequest e _ s
  | write => cases h; exact arbKept_finishRequest e _ s

theorem arbKept_attWait (P : Params) (s : State) : ArbKept s (attWait P s) := by
  have hstep : ∀ (e : SvcReq) (a : Bool) (alg : SvcAlg) (u : State), ArbKept s u →
      ArbKept s ((algorithmStep P e a u alg).getD (schedFault s)) := by
    intro e a alg u hu
    cases h : algorithmStep P e a u alg with
    | none => exact arbKept_schedFault s
    | some t => exact hu.trans (arbKept_algorithmStep h)
  unfold attWait
  split
  · split
    · exact hstep _ _ _ _ (.same rfl rfl)
    · split
      · exact hstep _ _ _ _ (.same rfl rfl)
      · exact .refl s
  · exact .refl s

/-! ### Moves -/

/-- Every end of a move, with its instructions run, is reached by a step of arbitration. -/
def ArbAdvances (s : State) (a : Advance) : Prop :=
  ∀ is u t, a = .run is u → runInstrs is u = .next t → ArbStep s t

section
variable {s u : State}

theorem ArbAdvances.done (h : ArbStep s u) : ArbAdvances s (.run [] u) := by
  rintro _ _ _ ⟨⟩ ⟨⟩
  exact h

theorem ArbAdvances.kept (hs : ArbInv s) (h : ArbKept s u) : ArbAdvances s (.run [] u) :=
  .done (h.step hs)

theorem ArbAdvances.held (hs : ArbInv s) : ArbAdvances s (.run [] s) :=
  .kept hs (.refl s)

/-- A move that runs one instruction. -/
theorem ArbAdvances.one {i : Instr} (hs : ArbInv s) (h : ArbKept s u) : ArbAdvances s (.run [i] u) := by
  rintro _ _ t ⟨⟩ hrun
  rw [runInstrs_singleton] at hrun
  exact (arbAnswers_exec i (h.inv hs) t hrun).after h

end

/-! ### SCHED: datagrams and switches -/

/-- The rows that are datagrams. -/
def isDatagramRow : Instr → Bool
  | .bidiAppPom _ | .bidiAppDyn .. => true
  | _ => false

theorem isDatagramRow_of_datagramHead {xs : List BidiSymbol} {i : Instr} {k : Nat} (h : datagramHead xs = some (i, k)) :
    isDatagramRow i = true := by
  unfold datagramHead at h
  split at h
  · split at h
    · split at h <;> cases h; rfl
    · split at h
      · split at h <;> cases h; rfl
      · cases h
  · cases h

/-- The parse of symbols finds datagrams alone (R383). -/
theorem isDatagramRow_of_mem_parseSymbols (n : Nat) (xs : List BidiSymbol) :
    ∀ i ∈ parseSymbols n xs, isDatagramRow i = true := by
  fun_induction parseSymbols n xs with
  | case4 n d rest i k hhead ih =>
    intro j hj
    rcases List.mem_cons.mp hj with rfl | hj
    · exact isDatagramRow_of_datagramHead hhead
    · exact ih j hj
  | case3 n rest ih => exact ih
  | _ => nofun

theorem isDatagramRow_of_mem_feedbackInstrs {P : Params} {f : Feedback} :
    ∀ i ∈ feedbackInstrs P f, isDatagramRow i = true := by
  unfold feedbackInstrs
  split
  · nofun
  · exact isDatagramRow_of_mem_parseSymbols _ _

/-- Datagrams are not seen by arbitration (R385, R386). -/
theorem arbKept_runInstrs {is : List Instr} {s t : State} (hi : ∀ i ∈ is, isDatagramRow i = true)
    (h : runInstrs is s = .next t) : ArbKept s t := by
  induction is generalizing s with
  | nil => cases h; exact .refl _
  | cons i is ih =>
    obtain ⟨hhead, htail⟩ := List.forall_mem_cons.mp hi
    simp only [runInstrs] at h
    split at h
    · rename_i u hu
      refine ArbKept.trans ?_ (ih htail h)
      cases i with
      | bidiAppPom value => exact arbKept_bidiAppPom hu
      | bidiAppDyn dv subindex => exact arbKept_bidiAppDyn hu
      | _ => cases hhead
    · cases h
    · cases h

theorem arbAdvances_opsBidi (P : Params) {s : State} (hs : ArbInv s) : ArbAdvances s (opsBidi P s) := by
  unfold opsBidi
  split
  · rintro _ _ t ⟨⟩ hrun
    have hkept : ArbKept s t := (arbKept_runInstrs isDatagramRow_of_mem_feedbackInstrs hrun).otherBefore rfl rfl
    exact hkept.step hs
  · split
    · split <;> exact .kept hs (.same rfl rfl)
    · exact .kept hs (.same rfl rfl)

/-- SCHED gives up its mode, or abandons where another has taken it (R262, R280). -/
theorem arbStep_switchAway (m : Mode) (p : SchedPhase) {s : State} (hs : ArbInv s) : ArbStep s (switchAway m p s) := by
  unfold switchAway
  split
  · rename_i hcas
    obtain ⟨hv, rfl⟩ := cas_eq_some hcas
    exact (arbStep_suspend hs hv).before (.same rfl rfl)
  · exact (arbKept_abandon s).step hs

/-- SCHED enters the other mode once `STATE` is `Suspended` (R263, R281). -/
theorem arbStep_switchInto (m : Mode) (p : SchedPhase) {s : State} (hs : ArbInv s) : ArbStep s (switchInto m p s) := by
  unfold switchInto
  split
  · rename_i hv
    exact (arbStep_enterMode hs (.inl hv)).before (.same rfl rfl)
  · exact .refl hs

theorem arbAdvances_schedAct (P : Params) {s : State} (hs : ArbInv s) : ArbAdvances s (schedAct P s) := by
  unfold schedAct
  split
  · exact .kept hs (arbKept_schedIdle s)
  · exact .kept hs (arbKept_opsStart P s)
  · exact .kept hs (arbKept_opsIdleFill P s)
  · split
    · exact .kept hs (arbKept_opsLoco P _ s)
    · exact .held hs
  · exact .kept hs (arbKept_opsPassEnd P s)
  · exact .kept hs (arbKept_opsSvc s)
  · exact .kept hs (arbKept_opsPom P s)
  · exact arbAdvances_opsBidi P hs
  · exact .done (arbStep_switchAway _ _ hs)
  · exact .done (arbStep_switchInto _ _ hs)
  · exact .kept hs (arbKept_svcEntry s)
  · exact .kept hs (arbKept_svcStartReset P s)
  · exact .kept hs (arbKept_svcNext s)
  · exact .kept hs (arbKept_svcRun P s)
  · exact .kept hs (arbKept_attProg P s)
  · exact .kept hs (arbKept_attReset P s)
  · exact .kept hs (arbKept_attWait P s)
  · exact .done (arbStep_switchAway _ _ hs)
  · exact .done (arbStep_switchInto _ _ hs)

theorem arbAdvances_schedStep (P : Params) {s : State} (hs : ArbInv s) : ArbAdvances s (schedStep P s) := by
  unfold schedStep
  split
  · exact arbAdvances_schedAct P hs
  · exact .kept hs (arbKept_abandon s)

/-! ### The terminal write (R208) -/

/-- A terminal write is a row of the table of R210. -/
theorem arbTransition_terminal {d : Driver} {v w : BitVec 16} (hw : w = stSuspended ∨ w = stShort)
    (hv : w = stShort ∨ v = stSuspend ∨ (stateOwnedBy d v = true ∧ (d = .decup ∨ d = .mdu))) :
    arbTransition v w = true := by
  rcases hv with rfl | rfl | ⟨hown, hd⟩
  · simp [arbTransition]
  · rcases hw with rfl | rfl <;> simp [arbTransition]
  · rcases hw with rfl | rfl <;> rcases hd with rfl | rfl <;> simp [arbTransition, hown]

/-! ### DCCDRV -/

/-- The idle step starts in the mode that `STATE` holds, or ends in `Suspended` or `ShortCircuit` (R213). -/
theorem arbStep_dccIdleStep {s : State} (hs : ArbInv s) (hp : s.dcc.phase = .dIdle) (hr : s.dcc.resume = true) :
    ArbStep s (dccIdleStep s) := by
  have he : (arbView s).dcc.engaged = true := engaged_of_resume hr
  rcases driverInv_engaged hs.clauses.dcc he with hv | hv | ⟨m, hv, hm, -⟩
  · rw [dccIdleStep_of_suspend hv]
    exact .of_view (by simp [arbView, hp]) (arbViewInv_finish_dcc hs he s.dcc.mode _ (.inl rfl)) (by simp [arbTransition, hv]) rfl
  · rw [dccIdleStep_of_short hv]
    exact .of_view (by simp [arbView, hp, hv]) (arbViewInv_finish_dcc hs he s.dcc.mode _ (.inr rfl)) (by simp [arbTransition]) rfl
  · rw [dccIdleStep_of_mode hm hv]
    exact .of_view (by simp [arbView]) (arbViewInv_start_dcc hs hr m (by simp [arbView, hv]) hm) (arbTransition_refl _) rfl

theorem arbKept_dccInit (hwOk : Bool) (m : Mode) {s : State} (hp : s.dcc.phase = .dInit) : ArbKept s (dccInit hwOk m s) := by
  unfold dccInit
  split
  · split
    · exact .dccRuns (by simp [hp]) (by simp [hp]) rfl rfl
    · exact .raise _ _ _ nofun
  · exact .raise _ _ _ nofun

/-- With `Suspend` or `ShortCircuit` in `STATE` a running DCCDRV may tear down (R353). -/
theorem arbViewInv_leave {w : ArbView} (h : arbViewInv w = true) (hi : w.dcc.idle = false)
    (hv : w.value = stSuspend ∨ w.value = stShort) : arbViewInv { w with dccLeaves := true } = true := by
  obtain ⟨-, hrest⟩ := arbViewInv_iff.mp h
  refine arbViewInv_iff.mpr ⟨?_, hrest⟩
  simpa [leaveInv, hi] using hv

/-- `D_CHECK` leaves for the teardown or goes on in its mode; there is no third case (R353, R503). -/
theorem arbStep_dccCheck {s : State} (hs : ArbInv s) (hp : s.dcc.phase = .dCheck) : ArbStep s (dccCheck s) := by
  have hi : (arbView s).dcc.idle = false := by simp [arbView, hp]
  unfold dccCheck
  split
  · rename_i hv
    exact .of_view (by simp [arbView, hp]) (arbViewInv_leave hs hi hv) (arbTransition_refl _) rfl
  · rename_i hv
    have hmode : s.dcc.mode.map modeValue = some s.arbState := mode_of_running hs.clauses.dcc hi hv
    rw [if_pos hmode]
    exact ArbKept.step (.dccRuns (by simp [hp]) (by simp [hp]) rfl rfl) hs

theorem arbKept_selectPacket (m : Mode) (s : State) :
    ArbKept s
      { (selectPacket m s).2 with
        dcc := { (selectPacket m s).2.dcc with cur := some (selectPacket m s).1 } } := by
  rcases selectPacket_cases m s with ⟨e, more, -, hsel⟩ | ⟨e, more, -, -, hsel⟩ | ⟨-, -, hsel⟩ <;> rw [hsel] <;>
    exact .same rfl rfl

theorem arbAdvances_dccSelect (P : Params) (m : Mode) {s : State} (hs : ArbInv s) : ArbAdvances s (dccSelect P m s) := by
  unfold dccSelect
  split
  · exact .kept hs (.raise _ _ _ nofun)
  · dsimp only
    split
    · exact .one hs (arbKept_selectPacket m s)
    · exact .kept hs ((arbKept_selectPacket m s).trans (arbKept_transmitPacket P _ _))

/-- The first-packet action is the ACK detector's (R462). -/
theorem firstAction_eq (s : State) : ∃ a, firstAction s = { s with svcack := a } := by
  unfold firstAction
  split
  · exact ⟨s.svcack, rfl⟩
  all_goals exact ⟨_, rfl⟩

/-- The end action is the ACK detector's, with its result in `ACKBUF` (R464). -/
theorem endAction_eq (s : State) : ∃ a b, endAction s = { s with svcack := a, ackbuf := b } := by
  unfold endAction
  split
  · exact ⟨_, _, rfl⟩
  all_goals exact ⟨s.svcack, s.ackbuf, rfl⟩

/-- The tag actions leave everything but the ACK detector's registers and `ACKBUF` (R355). -/
theorem tagActions_eq (p : Packet) (s : State) : ∃ a b, tagActions p s = { s with svcack := a, ackbuf := b } := by
  obtain ⟨a, ha⟩ : ∃ a, (if p.first then firstAction s else s) = { s with svcack := a } := by
    split
    · exact firstAction_eq s
    · exact ⟨s.svcack, rfl⟩
  simp only [tagActions, ha]
  split
  · exact endAction_eq { s with svcack := a }
  · exact ⟨a, s.ackbuf, rfl⟩

theorem arbKept_dccTxDone {s : State} (hp : s.dcc.phase = .dTx) : ArbKept s (dccTxDone s) := by
  unfold dccTxDone
  cases s.dcc.cur with
  | none => dsimp only; split <;> exact .dccRuns (by simp [hp]) (by simp [hp]) rfl rfl
  | some p =>
    obtain ⟨a, b, htags⟩ := tagActions_eq p s
    dsimp only
    rw [htags]
    split <;> exact .dccRuns (by simp [hp]) (by simp [hp]) rfl rfl

theorem arbKept_dccCapture (P : Params) {s : State} (hp : s.dcc.phase = .dCapture) : ArbKept s (dccCapture P s) := by
  unfold dccCapture
  dsimp only
  rw [pushFeedback_eq]
  exact .dccRuns (by simp [hp]) (by simp [hp]) rfl rfl

/-- The teardown of DCCDRV writes `Suspended` after `Suspend` and keeps `ShortCircuit`; there is no third case (R358, R503). -/
theorem arbStep_dccTeardown (hwOk : Bool) {s : State} (hs : ArbInv s) (hp : s.dcc.phase = .dTeardown) :
    ArbStep s (dccTeardown hwOk s) := by
  have hdrv := hs.clauses.dcc
  have hi : (arbView s).dcc.idle = false := by simp [arbView, hp]
  have hr : s.dcc.resume = false := resume_of_running hdrv hi
  obtain ⟨w, hterm, hw, hv⟩ := terminalValue_of_running hdrv hi
  have hterm' : terminalValue s.dcc.mode s.arbState = some w := hterm
  have hfrom : w = stShort ∨ s.arbState = stSuspend := by
    refine hv.imp_right fun hv => hv.resolve_right fun hown => ?_
    rcases hs.clauses.leaves hp with h | h <;> simp [h] at hown
  unfold dccTeardown
  split
  · rw [hterm']
    exact .of_view (w := { arbView s with value := w, dcc := ⟨true, s.dcc.resume, none⟩, dccLeaves := false }) rfl
      (by rw [hr]; exact arbViewInv_finish_dcc hs (engaged_of_running hi) none w hw)
      (arbTransition_terminal (d := .dcc) hw (hfrom.imp_right .inl)) rfl
  · exact .raise hs nofun

theorem arbAdvances_dccStep (P : Params) (hwOk : Bool) {s : State} (hs : ArbInv s) : ArbAdvances s (dccStep P hwOk s) := by
  unfold dccStep
  split
  · rename_i hp
    split
    · rename_i hr
      exact .done (arbStep_dccIdleStep hs hp hr)
    · exact .held hs
  · rename_i hp _
    exact .kept hs (arbKept_dccInit hwOk _ hp)
  · rename_i hp
    exact .done (arbStep_dccCheck hs hp)
  · exact arbAdvances_dccSelect P _ hs
  · rename_i hp
    split
    · exact .kept hs (arbKept_dccTxDone hp)
    · exact .held hs
  · rename_i hp
    split
    · exact .kept hs (.dccRuns (by simp [hp]) (by simp [hp]) rfl rfl)
    · exact .held hs
  · rename_i hp
    exact .kept hs (arbKept_dccCapture P hp)
  · rename_i hp
    exact .done (arbStep_dccTeardown hwOk hs hp)
  · exact .held hs
  · exact .held hs

theorem arbAdvances_dccMove (P : Params) (hwOk : Bool) {s : State} (hs : ArbInv s) : ArbAdvances s (dccMove P hwOk s) := by
  unfold dccMove
  split
  · exact .held hs
  · exact arbAdvances_dccStep P hwOk hs

end Sys2Proof.Machine
end

section
/-! The other drivers, HOST and the issuers as arbitration sees them, and the two claims about every step (R210, R211, R503). -/

namespace Sys2Proof.Machine

/-! ### DECUPDRV and DECUPEDGE -/

/-- The idle step starts in the mode that `STATE` holds, or ends in `Suspended` or `ShortCircuit` (R213). -/
theorem arbStep_decupIdleStep {s : State} (hs : ArbInv s) (hp : s.decup.phase = .uIdle) (hr : s.decup.resume = true) :
    ArbStep s (decupIdleStep s) := by
  have he : (arbView s).decup.engaged = true := engaged_of_resume hr
  rcases driverInv_engaged hs.clauses.decup he with hv | hv | ⟨m, hv, hm, -⟩
  · rw [decupIdleStep_of_suspend hv]
    exact .of_view (by simp [arbView, hp]) (arbViewInv_finish_decup hs he s.decup.mode _ (.inl rfl)) (by simp [arbTransition, hv])
      rfl
  · rw [decupIdleStep_of_short hv]
    exact .of_view (by simp [arbView, hp, hv]) (arbViewInv_finish_decup hs he s.decup.mode _ (.inr rfl)) (by simp [arbTransition])
      rfl
  · rw [decupIdleStep_of_mode hm hv]
    exact .of_view (by simp [arbView]) (arbViewInv_start_decup hs hr m (by simp [arbView, hv]) hm) (arbTransition_refl _) rfl

theorem arbKept_decupInit (P : Params) (hwOk : Bool) {s : State} (hp : s.decup.phase ≠ .uIdle) :
    ArbKept s (decupInit P hwOk s) := by
  unfold decupInit
  split
  · split
    · exact .decupRuns hp rfl rfl
    · exact .raise _ _ _ nofun
  · exact .raise _ _ _ nofun

/-- `U_CHECK` leaves for the teardown or goes on in its mode; there is no third case (R403, R503). -/
theorem arbKept_decupCheck {s : State} (hs : ArbInv s) (hp : s.decup.phase ≠ .uIdle) : ArbKept s (decupCheck s) := by
  unfold decupCheck
  split
  · exact .decupRuns hp rfl rfl
  · rename_i hv
    have hmode : s.decup.mode.map modeValue = some s.arbState :=
      mode_of_running hs.clauses.decup (by simp [arbView, hp]) hv
    rw [if_pos hmode]
    exact .decupRuns hp rfl rfl

theorem arbKept_decupWaitPkt (P : Params) (m : Mode) {s : State} (hp : s.decup.phase ≠ .uIdle) :
    ArbKept s (decupWaitPkt P m s) := by
  unfold decupWaitPkt
  split
  · exact .decupRuns hp rfl rfl
  · split
    · exact .decupRuns hp rfl rfl
    · split
      · exact .decupRuns hp rfl rfl
      · exact .refl s

theorem arbKept_decupTxDone (P : Params) (m : Mode) (pkt : List Byte) {s : State} (hp : s.decup.phase ≠ .uIdle) :
    ArbKept s (decupTxDone P m pkt s) :=
  .decupRuns hp rfl rfl

theorem arbKept_decupWin1 {s : State} (hp : s.decup.phase ≠ .uIdle) : ArbKept s (decupWin1 s) := by
  unfold decupWin1
  split <;> exact .decupRuns hp rfl rfl

theorem arbKept_decupWin2 {s : State} (hp : s.decup.phase ≠ .uIdle) : ArbKept s (decupWin2 s) :=
  .decupRuns hp rfl rfl

theorem arbKept_decupSettle (P : Params) (m : Mode) (pkt : List Byte) {s : State} (hp : s.decup.phase ≠ .uIdle) :
    ArbKept s (decupSettle P m pkt s) :=
  .decupRuns hp rfl rfl

/-- The teardown of DECUPDRV writes `Suspended` or keeps `ShortCircuit`; there is no third case (R410, R503). -/
theorem arbStep_decupTeardown (hwOk : Bool) {s : State} (hs : ArbInv s) (hp : s.decup.phase = .uTeardown) :
    ArbStep s (decupTeardown hwOk s) := by
  have hdrv := hs.clauses.decup
  have hi : (arbView s).decup.idle = false := by simp [arbView, hp]
  have hr : s.decup.resume = false := resume_of_running hdrv hi
  obtain ⟨w, hterm, hw, hv⟩ := terminalValue_of_running hdrv hi
  have hterm' : terminalValue s.decup.mode s.arbState = some w := hterm
  unfold decupTeardown
  split
  · rw [hterm']
    exact .of_view (w := { arbView s with value := w, decup := ⟨true, s.decup.resume, none⟩ }) rfl
      (by rw [hr]; exact arbViewInv_finish_decup hs (engaged_of_running hi) none w hw)
      (arbTransition_terminal hw (hv.imp_right (.imp_right fun h => ⟨h, .inl rfl⟩))) rfl
  · exact .raise hs nofun

theorem arbStep_decupAct (P : Params) (hwOk : Bool) {s : State} (hs : ArbInv s) : ArbStep s (decupAct P hwOk s) := by
  unfold decupAct
  split
  · rename_i hp
    split
    · rename_i hr
      exact arbStep_decupIdleStep hs hp hr
    · exact .refl hs
  · rename_i hp
    exact (arbKept_decupInit P hwOk (by simp [hp])).step hs
  · rename_i hp
    exact (arbKept_decupCheck hs (by simp [hp])).step hs
  · rename_i hp _
    exact (arbKept_decupWaitPkt P _ (by simp [hp])).step hs
  · rename_i hp _ _
    exact (arbKept_decupTxDone P _ _ (by simp [hp])).step hs
  · rename_i hp
    exact (arbKept_decupWin1 (by simp [hp])).step hs
  · rename_i hp
    exact (arbKept_decupWin2 (by simp [hp])).step hs
  · rename_i hp _ _
    exact (arbKept_decupSettle P _ _ (by simp [hp])).step hs
  · rename_i hp
    exact arbStep_decupTeardown hwOk hs hp
  all_goals exact .refl hs

theorem arbStep_decupMove (P : Params) (hwOk : Bool) {s : State} (hs : ArbInv s) : ArbStep s (decupMove P hwOk s) := by
  have hact := arbStep_decupAct P hwOk hs
  have hpoll : ∀ b : Bool, ArbStep s (if b then { decupAct P hwOk s with polled := true } else s) := by
    intro b
    split
    · exact hact.before (.same rfl rfl)
    · exact .refl hs
  unfold decupMove
  split
  · split
    · exact hact
    · exact .refl hs
  · exact hpoll _
  · exact hpoll _
  · exact hpoll _
  all_goals exact hact

theorem arbKept_decupEdge (s : State) : ArbKept s (decupEdge s) := by
  unfold decupEdge
  split <;> exact .same rfl rfl

/-! ### MDUDRV and MDUCAP -/

/-- The idle step starts in the mode that `STATE` holds, or ends in `Suspended` or `ShortCircuit` (R213). -/
theorem arbStep_mduIdleStep {s : State} (hs : ArbInv s) (hp : s.mdu.phase = .mIdle) (hr : s.mdu.resume = true) :
    ArbStep s (mduIdleStep s) := by
  have he : (arbView s).mdu.engaged = true := engaged_of_resume hr
  rcases driverInv_engaged hs.clauses.mdu he with hv | hv | ⟨m, hv, hm, -⟩
  · rw [mduIdleStep_of_suspend hv]
    exact .of_view (by simp [arbView, hp]) (arbViewInv_finish_mdu hs he s.mdu.mode _ (.inl rfl)) (by simp [arbTransition, hv]) rfl
  · rw [mduIdleStep_of_short hv]
    exact .of_view (by simp [arbView, hp, hv]) (arbViewInv_finish_mdu hs he s.mdu.mode _ (.inr rfl)) (by simp [arbTransition]) rfl
  · rw [mduIdleStep_of_mode hm hv]
    exact .of_view (by simp [arbView]) (arbViewInv_start_mdu hs hr m (by simp [arbView, hv]) hm) (arbTransition_refl _) rfl

theorem arbKept_mduInit (P : Params) (hwOk : Bool) {s : State} (hp : s.mdu.phase ≠ .mIdle) : ArbKept s (mduInit P hwOk s) := by
  unfold mduInit
  split
  · split
    · exact .mduRuns hp rfl rfl
    · exact .raise _ _ _ nofun
  · exact .raise _ _ _ nofun

/-- `M_CHECK` leaves for the teardown or goes on in its mode; there is no third case (R433, R503). -/
theorem arbKept_mduCheck {s : State} (hs : ArbInv s) (hp : s.mdu.phase ≠ .mIdle) : ArbKept s (mduCheck s) := by
  unfold mduCheck
  split
  · exact .mduRuns hp rfl rfl
  · rename_i hv
    have hmode : s.mdu.mode.map modeValue = some s.arbState := mode_of_running hs.clauses.mdu (by simp [arbView, hp]) hv
    rw [if_pos hmode]
    exact .mduRuns hp rfl rfl

theorem arbKept_mduWaitPkt (P : Params) (m : Mode) {s : State} (hp : s.mdu.phase ≠ .mIdle) :
    ArbKept s (mduWaitPkt P m s) := by
  unfold mduWaitPkt
  split
  · exact .mduRuns hp rfl rfl
  · split
    · split
      · exact .mduRuns hp rfl rfl
      · exact .raise _ _ _ nofun
    · split
      · exact .mduRuns hp rfl rfl
      · exact .refl s

theorem arbKept_mduEval (P : Params) (pkt : List Byte) {s : State} (hp : s.mdu.phase ≠ .mIdle) :
    ArbKept s (mduEval P pkt s) := by
  unfold mduEval
  split
  · exact .mduRuns hp rfl rfl
  · exact .raise _ _ _ nofun

/-- The teardown of MDUDRV writes `Suspended` or keeps `ShortCircuit`; there is no third case (R438, R503). -/
theorem arbStep_mduTeardown (P : Params) (hwOk : Bool) {s : State} (hs : ArbInv s) (hp : s.mdu.phase = .mTeardown) :
    ArbStep s (mduTeardown P hwOk s) := by
  have hdrv := hs.clauses.mdu
  have hi : (arbView s).mdu.idle = false := by simp [arbView, hp]
  have hr : s.mdu.resume = false := resume_of_running hdrv hi
  obtain ⟨w, hterm, hw, hv⟩ := terminalValue_of_running hdrv hi
  have hterm' : terminalValue s.mdu.mode s.arbState = some w := hterm
  unfold mduTeardown
  split
  · rw [hterm']
    exact .of_view (w := { arbView s with value := w, mdu := ⟨true, s.mdu.resume, none⟩ }) rfl
      (by rw [hr]; exact arbViewInv_finish_mdu hs (engaged_of_running hi) none w hw)
      (arbTransition_terminal hw (hv.imp_right (.imp_right fun h => ⟨h, .inr rfl⟩))) rfl
  · exact .raise hs nofun

theorem arbStep_mduAct (P : Params) (hwOk : Bool) {s : State} (hs : ArbInv s) : ArbStep s (mduAct P hwOk s) := by
  unfold mduAct
  split
  · rename_i hp
    split
    · rename_i hr
      exact arbStep_mduIdleStep hs hp hr
    · exact .refl hs
  · rename_i hp
    exact (arbKept_mduInit P hwOk (by simp [hp])).step hs
  · rename_i hp
    exact (arbKept_mduCheck hs (by simp [hp])).step hs
  · rename_i hp _
    exact (arbKept_mduWaitPkt P _ (by simp [hp])).step hs
  · rename_i hp
    exact ArbKept.step (.mduRuns (by simp [hp]) rfl rfl) hs
  · rename_i hp _
    exact (arbKept_mduEval P _ (by simp [hp])).step hs
  · rename_i hp
    exact arbStep_mduTeardown P hwOk hs hp
  all_goals exact .refl hs

theorem arbStep_mduMove (P : Params) (hwOk : Bool) {s : State} (hs : ArbInv s) : ArbStep s (mduMove P hwOk s) := by
  have hact := arbStep_mduAct P hwOk hs
  unfold mduMove
  split
  · split
    · exact hact
    · exact .refl hs
  · split
    · exact hact.before (.same rfl rfl)
    · exact .refl hs
  all_goals exact hact

theorem arbKept_mduCapture (P : Params) (s : State) : ArbKept s (mduCapture P s) := by
  unfold mduCapture
  split
  · exact .same rfl rfl
  · exact .refl s

/-! ### CUTOUT, UARTRX and SVCACK -/

theorem arbKept_cutoutStep (P : Params) (s : State) : ArbKept s (cutoutStep P s) := by
  unfold cutoutStep
  split
  · split <;> exact .same rfl rfl
  · exact .refl s

theorem arbKept_uartStep (P : Params) (b : Byte) (s : State) : ArbKept s (uartStep P b s) := by
  unfold uartStep
  split
  · exact .same rfl rfl
  · exact .refl s

theorem arbKept_svcack (r : SvcAckRegs) (s : State) : ArbKept s { s with svcack := r } := .same rfl rfl

theorem arbKept_sampleStep (x : BitVec 16) (s : State) : ArbKept s (sampleStep x s) := by
  unfold sampleStep
  dsimp only
  split
  · exact .refl s
  · exact arbKept_svcack _ s
  · split
    · split
      · exact arbKept_svcack _ s
      · exact .raise _ _ _ nofun
    · exact arbKept_svcack _ s

theorem ArbKept.envMove {P : Params} {f : State → State} {s : State} (h : ArbKept s (f s)) : ArbKept s (envMove P f s) := by
  unfold Machine.envMove
  split
  · exact h
  · exact .refl s

/-! ### HOST and the other issuers -/

theorem arbKept_hostIntake (s : State) : ArbKept s (hostIntake s) := by
  unfold hostIntake
  split
  · exact .same rfl rfl
  · exact .refl s

theorem arbAdvances_hostExec (c : Command) {s : State} (hs : ArbInv s) : ArbAdvances s (hostExec c s) := by
  unfold hostExec
  split
  · exact .one hs (.same rfl rfl)
  · exact .kept hs ((arbKept_respond _ _ _).otherBefore rfl rfl)

theorem arbKept_targetPush (t : Target) (bytes : List Byte) (s : State) : ArbKept s (targetPush t bytes s) := by
  cases t <;> exact .same rfl rfl

theorem arbKept_hostPush (P : Params) (p : Pending) (s : State) : ArbKept s (hostPush P p s) := by
  unfold hostPush
  split
  · split
    · exact ((arbKept_targetPush _ _ _).trans (arbKept_respond _ _ _)).otherBefore rfl rfl
    · exact .refl s
  · exact (arbKept_respond _ _ _).otherBefore rfl rfl

theorem arbAdvances_hostStep (P : Params) {s : State} (hs : ArbInv s) : ArbAdvances s (hostStep P s) := by
  unfold hostStep
  split
  · exact .kept hs (arbKept_hostIntake s)
  · exact arbAdvances_hostExec _ hs
  · exact .kept hs (arbKept_hostPush P _ s)
  · exact .held hs
  · exact .held hs

theorem arbAdvances_issuerStep (who : Issuer) (p : Port) {s : State} (hs : ArbInv s) :
    ArbAdvances s (issuerStep who p s) := by
  unfold issuerStep
  split
  · exact .held hs
  · split
    · split
      · exact .one hs (.same rfl rfl)
      · exact .kept hs ((arbKept_respond _ _ _).otherBefore rfl rfl)
    · exact .kept hs ((arbKept_respond _ _ _).otherBefore rfl rfl)

theorem arbKept_deliverStep (who : Issuer) (ws : List Word) (s : State) : ArbKept s (deliverStep who ws s) := by
  unfold deliverStep
  split
  · cases who <;> exact .same rfl rfl
  · exact .refl s

/-! ### Every step -/

theorem arbAdvances_timeMove (P : Params) {s : State} (hs : ArbInv s) : ArbAdvances s (timeMove P s) := by
  unfold timeMove
  split
  · exact .held hs
  · split
    · exact .kept hs (.same rfl rfl)
    · rintro _ _ _ ⟨⟩

/-- Every move is a step of arbitration. -/
theorem arbAdvances_moveStep (P : Params) (m : Move) {s : State} (hs : ArbInv s) : ArbAdvances s (moveStep P m s) := by
  cases m with
  | host => exact arbAdvances_hostStep P hs
  | sched => exact arbAdvances_schedStep P hs
  | dccdrv hwOk => exact arbAdvances_dccMove P hwOk hs
  | cutout => exact .kept hs (arbKept_cutoutStep P s)
  | decupdrv hwOk => exact .done (arbStep_decupMove P hwOk hs)
  | mdudrv hwOk => exact .done (arbStep_mduMove P hwOk hs)
  | time => exact arbAdvances_timeMove P hs
  | uart b => exact .kept hs (.envMove (arbKept_uartStep P b s))
  | edge => exact .kept hs (.envMove ((arbKept_decupEdge s).trans (arbKept_mduCapture P _)))
  | sample x => exact .kept hs (.envMove (arbKept_sampleStep x s))
  | replyDecup => exact .kept hs (.same rfl rfl)
  | replyMdu => exact .kept hs (.same rfl rfl)
  | analog => exact arbAdvances_issuerStep _ _ hs
  | ext => exact arbAdvances_issuerStep _ _ hs
  | deliver who ws => exact .kept hs (arbKept_deliverStep who ws s)

theorem arbKept_nextMove (P : Params) (s : State) : ArbKept s (nextMove P s).2 := by
  unfold nextMove
  split <;> exact .same rfl rfl

theorem arbAdvances_advance (P : Params) {s : State} (hs : ArbInv s) : ArbAdvances s (advance P s) := by
  unfold advance
  split
  · split
    · exact .one hs (.same rfl rfl)
    · exact .kept hs (.same rfl rfl)
  · have hkept := arbKept_nextMove P s
    intro is u t hadvance hrun
    exact (arbAdvances_moveStep P _ (hkept.inv hs) is u t hadvance hrun).after hkept

/-- Every step from a state that meets the invariant agrees with R210, R211 and R503. -/
theorem arbStep_step {s t : State} (hs : ArbInv s) (h : step s = .next t) : ArbStep s t := by
  obtain ⟨-, is, u, hadvance, hrun⟩ := step_eq_next h
  exact arbAdvances_advance Config.params hs is u t hadvance hrun

/-- Settles O16: every step is a step of arbitration, which keeps the invariant. -/
theorem arbInvKept : Obligations.ArbInvKept :=
  fun _ _ hs h => (arbStep_step hs h).inv

/-- Settles O18: every step is a step of arbitration, a row of R210 without a new `ARB_INVARIANT` fault. -/
theorem stateTransitions : Obligations.StateTransitions := by
  intro s t hs h
  have hstep := arbStep_step hs h
  refine ⟨hstep.change, fun hnone r hr => (hstep.fault r hr).resolve_left ?_⟩
  rw [hnone]
  nofun

end Sys2Proof.Machine
end

section
/-! HOST's intake and push (R231), and the results of the loco, CV, raw packet and register commands from HOST (R235 to R250, R400,
R430). -/

namespace Sys2Proof.Machine

/-! ### Intake and push (R231) -/

/-- The head of a port is a whole command once its payload words are there (R115). -/
theorem headCommand_cons {w : Word} {more : List Word} (h : payloadCount w ≤ more.length) :
    headCommand (w :: more) =
      some ({ word := w, payload := unpackPayload (more.take (payloadCount w)) (CmdFields.ofWord w).len.toNat },
        more.drop (payloadCount w)) :=
  if_pos h

section
variable {P : Params} {s : State} {p : Pending}

/-- HOST takes a whole command off its port. -/
theorem hostStep_intake {c : Command} {more : List Word} (hphase : s.host.phase = .hIdle)
    (hhead : headCommand s.hostPort.cmds = some (c, more)) :
    hostStep P s =
      .run []
        { s with hostPort := { s.hostPort with cmds := more }, host := { s.host with phase := .hExec, cmd := some c } } := by
  simp only [hostStep, hphase, hostIntake, hhead]

theorem hostStep_push (hphase : s.host.phase = .hPush) (hpend : s.host.pend = some p) :
    hostStep P s = .run [] (hostPush P p s) := by
  simp only [hostStep, hphase, hpend]

/-- The packet is dropped once `STATE` has changed since its admission. -/
theorem hostPush_of_changed (h : s.arbState ≠ p.adm) : hostPush P p s = respond statusOk 0 { s with issuer := .host } :=
  if_neg h

theorem hostPush_of_full (h : s.arbState = p.adm) (hfull : targetFree P s p.target = 0) : hostPush P p s = s := by
  rw [hostPush, if_pos h, hfull, if_neg (Nat.lt_irrefl 0)]

theorem hostPush_of_room (h : s.arbState = p.adm) (hroom : 0 < targetFree P s p.target) :
    hostPush P p s = respond statusOk 0 (targetPush p.target p.bytes { s with issuer := .host }) := by
  rw [hostPush, if_pos h, if_pos hroom]

end

/-- Settles O9: the intake of a whole command, and the three ways a push goes. -/
theorem hostIntakeAndPush : Obligations.HostIntakeAndPush := by
  intro s rest hnext
  refine ⟨fun w more hphase hcmds hlen => ?intake, fun p hphase hpend => ?push⟩
  case intake =>
    have hhead := headCommand_cons hlen
    rw [← hcmds] at hhead
    exact step_of_moveStep hnext (hostStep_intake (s := took rest s) hphase hhead)
  case push =>
    have hstep : step s = .next (hostPush Config.params p (took rest s)) :=
      step_of_moveStep hnext (hostStep_push (s := took rest s) hphase hpend)
    refine ⟨fun hadm => ?changed, fun hadm hfull => ?full, fun hadm hroom => ?room⟩
    case changed => exact hstep.trans (congrArg _ (hostPush_of_changed hadm))
    case full => exact hstep.trans (congrArg _ (hostPush_of_full (s := took rest s) hadm hfull))
    case room =>
      rw [hstep, hostPush_of_room (s := took rest s) hadm hroom]
      cases p.target <;> rfl

/-! ### Loco commands (R230, R235 to R242) -/

/-- A command from HOST is not turned away for its issuer (R526). -/
theorem hostOnly_of_host {s : State} (h : s.issuer = .host) (k : Res) : hostOnly s k = k :=
  if_pos h

/-- The defaults of R24 and what the store gives are the values of a created record (R230). -/
theorem createdLoco_locoCreated (answer : Option NvRecord) : CreatedLoco answer (locoCreated answer) := by
  cases answer with
  | none => exact ⟨rfl, ⟨rfl, rfl, rfl⟩, nofun, fun _ => ⟨rfl, rfl, rfl, rfl, rfl⟩⟩
  | some r => exact ⟨rfl, ⟨rfl, rfl, rfl⟩, by rintro _ ⟨⟩; exact ⟨rfl, rfl, rfl, rfl, rfl⟩, nofun⟩

/-- The record a command works on is the one that is there, else one just created (R230). -/
theorem gotOrCreated_locoRecord (P : Params) (a : Addr) (s : State) : GotOrCreated P a s (locoRecord P a s) := by
  unfold GotOrCreated locoRecord
  cases locoGet a s.locos with
  | none => exact createdLoco_locoCreated _
  | some l => rfl

theorem getOrCreate_of_noRoom {P : Params} {a : Addr} {s : State} (h : ¬locoRoom P a s) : getOrCreate P a s = none := by
  rw [getOrCreate_eq]
  exact if_neg h

theorem getOrCreate_of_room {P : Params} {a : Addr} {s : State} (h : locoRoom P a s) :
    getOrCreate P a s =
      some (locoRecord P a s,
        if (locoGet a s.locos).isSome then s
        else { lookedUp a s with locos := locoPut a (locoRecord P a s) s.locos }) := by
  rw [getOrCreate_eq]
  exact if_pos h

/-- The end of a command that changes a record it looked up: stored with its events, and its packet handed over (R235, R236). -/
theorem injectPacket_storeLoco (P : Params) (a : Addr) (l : Loco) (pkt : List Byte) (s : State) :
    injectPacket pkt
        (storeLoco a l
          (if (locoGet a s.locos).isSome = true then s
            else { lookedUp a s with locos := locoPut a (locoRecord P a s) s.locos })) =
      .next (locoAnswered pkt (locoStored a l (lookedUp a s))) := by
  rw [storeLoco_created, injectPacket_eq]

/-- Settles O20: an illegal operand; a full table; a record to change. -/
theorem locoDriveRule : Obligations.LocoDriveRule := by
  intro a c d s hs
  refine ⟨gotOrCreated_locoRecord _ a s, fun hop => ?illegal, fun hop hroom => ?full, fun hop hroom => ?changed⟩
  case illegal =>
    simp only [exec, execLocoDrive, hostOnly_of_host hs, hop, Bool.false_eq_true, if_false]
    rfl
  case full =>
    simp only [exec, execLocoDrive, hostOnly_of_host hs, hop, if_true, getOrCreate_of_noRoom hroom]
    rfl
  case changed =>
    simp only [exec, execLocoDrive, hostOnly_of_host hs, hop, if_true, getOrCreate_of_room hroom, injectPacket_storeLoco]

/-- The function bit of a number, and no other, takes the value (R236). -/
theorem getLsbD_setFunction (f : BitVec 32) (i : BitVec 5) (on : Bool) {j : Nat} (hj : j < 32) :
    (setFunction f i on).getLsbD j = if j = i.toNat then on else f.getLsbD j := by
  have hbit : (1#32 <<< i.toNat).getLsbD j = decide (j = i.toNat) := by
    rw [← BitVec.twoPow_eq, BitVec.getLsbD_twoPow, decide_eq_true i.isLt, Bool.true_and]
    exact decide_eq_decide.mpr eq_comm
  cases on with
  | true =>
    rw [setFunction, if_pos rfl, BitVec.getLsbD_or, hbit]
    by_cases hji : j = i.toNat <;> simp [hji]
  | false =>
    rw [setFunction, if_neg Bool.false_ne_true, BitVec.getLsbD_and, BitVec.getLsbD_not, hbit, decide_eq_true hj]
    by_cases hji : j = i.toNat <;> simp [hji]

/-- Settles O21: as `LOCO_DRIVE`, and the one bit that changes. -/
theorem locoFunctionRule : Obligations.LocoFunctionRule := by
  refine ⟨fun a i on s hs => ⟨gotOrCreated_locoRecord _ a s, fun hop => ?illegal, fun hop hroom => ?full,
    fun hop hroom => ?changed⟩, fun f i on j hj => getLsbD_setFunction f i on hj⟩
  case illegal =>
    simp only [exec, execLocoFunction, hostOnly_of_host hs, hop, Bool.false_eq_true, if_false]
    rfl
  case full =>
    simp only [exec, execLocoFunction, hostOnly_of_host hs, hop, if_true, getOrCreate_of_noRoom hroom]
    rfl
  case changed =>
    simp only [exec, execLocoFunction, hostOnly_of_host hs, hop, if_true, getOrCreate_of_room hroom,
      injectPacket_storeLoco]

/-- The direction is bit 7 of the speed byte, and a stop is speed 0 (R24, R237). -/
theorem stopKeepingDirection_eq (d : Byte) : stopKeepingDirection d = BitVec.ofBool (d.getLsbD 7) ++ 0#7 := by
  revert d; decide

/-- Settles O22: an illegal operand; no record; a record to change. -/
theorem locoModeRule : Obligations.LocoModeRule := by
  intro a c s hs
  refine ⟨fun hop => ?illegal, fun hop hget => ?noLoco, fun l hop hget => ?changed⟩
  case illegal =>
    simp only [exec, execLocoMode, hostOnly_of_host hs, hop, Bool.false_eq_true, if_false]
    rfl
  case noLoco =>
    simp only [exec, execLocoMode, hostOnly_of_host hs, hop, if_true, hget]
    rfl
  case changed =>
    simp only [exec, execLocoMode, hostOnly_of_host hs, hop, if_true, hget, storeLoco_eq, injectPacket_eq,
      stopKeepingDirection_eq]

/-- Settles O23: an illegal operand; no record; a record to read. -/
theorem locoReadRule : Obligations.LocoReadRule := by
  intro a s hs
  refine ⟨fun hop => ?illegal, fun hop hget => ?noLoco, fun l hop hget => ?found⟩
  case illegal =>
    simp only [exec, execLocoInfo, execLocoRailcom, hostOnly_of_host hs, hop, Bool.false_eq_true, if_false]
    exact ⟨rfl, rfl⟩
  case noLoco =>
    simp only [exec, execLocoInfo, execLocoRailcom, hostOnly_of_host hs, hop, if_true, hget]
    exact ⟨rfl, rfl⟩
  case found =>
    simp only [exec, execLocoInfo, execLocoRailcom, hostOnly_of_host hs, hop, if_true, hget]
    exact ⟨rfl, rfl⟩

/-- Settles O24: an illegal operand; the erase of one record; the erase of all. -/
theorem locoEraseRule : Obligations.LocoEraseRule := by
  intro a s hs
  refine ⟨fun hop => ?illegal, fun hop => ?one, ?all⟩
  case illegal =>
    simp only [exec, execLocoErase, hostOnly_of_host hs, hop, Bool.false_eq_true, if_false]
    rfl
  case one =>
    simp only [exec, execLocoErase, hostOnly_of_host hs, hop, if_true]
    rfl
  case all =>
    simp only [exec, execLocoEraseAll, hostOnly_of_host hs]
    rfl

@[simp] theorem locoAnswered_locos (pkt : List Byte) (s : State) : (locoAnswered pkt s).locos = s.locos := by
  unfold locoAnswered
  split
  · rfl
  · exact respond_locos _ _ _

/-- `LOCO_MODE` writes at most the record that is there (R237, R241). -/
theorem locos_of_locoMode {a : Addr} {c : BitVec 3} {s t : State} (h : exec (.locoMode a c) s = .next t) :
    t.locos = s.locos ∨ ∃ old new, locoGet a s.locos = some old ∧ t.locos = locoPut a new s.locos := by
  by_cases hs : s.issuer = .host
  · obtain ⟨hillegal, hnoLoco, hchanged⟩ := locoModeRule a c s hs
    cases hop : addrLegal a && stepsLegal c with
    | false =>
      cases (hillegal hop).symm.trans h
      exact .inl (respond_locos _ _ _)
    | true =>
      cases hget : locoGet a s.locos with
      | none =>
        cases (hnoLoco hop hget).symm.trans h
        exact .inl (respond_locos _ _ _)
      | some l =>
        cases (hchanged l hop hget).symm.trans h
        exact .inr ⟨l, _, rfl, locoAnswered_locos _ _⟩
  · cases (hostOnly_of_ne hs _).symm.trans h
    exact .inl (respond_locos _ _ _)

/-- `LOCO_ERASE` at most removes a record (R240, R241). -/
theorem locos_of_locoErase {a : Addr} {s t : State} (h : exec (.locoErase a) s = .next t) :
    t.locos = s.locos ∨ t.locos = locoErase a s.locos := by
  by_cases hs : s.issuer = .host
  · obtain ⟨hillegal, herased, -⟩ := locoEraseRule a s hs
    cases hop : addrLegal a with
    | false =>
      cases (hillegal hop).symm.trans h
      exact .inl (respond_locos _ _ _)
    | true =>
      cases (herased hop).symm.trans h
      exact .inr (respond_locos _ _ _)
  · cases (hostOnly_of_ne hs _).symm.trans h
    exact .inl (respond_locos _ _ _)

/-- A command from the list of R23 alone writes the loco table. -/
theorem locos_of_mayWriteLocos {i : Instr} {s t : State} (hi : isHostOnly i = true) (hw : mayWriteLocos i = false)
    (h : exec i s = .next t) : t.locos = s.locos := by
  obtain ⟨-, -, -, hlocos, -⟩ := commandsFrame i s t (.inr hi) h
  exact (hlocos hw).1

/-- Settles O25: `LOCO_MODE` writes where a record was, `LOCO_ERASE` removes, and the others leave the table. -/
theorem noCreateRule : Obligations.NoCreateRule := by
  intro i s t h
  refine ⟨?reads, ?noCreate⟩
  case reads =>
    rintro (⟨a, rfl⟩ | ⟨a, rfl⟩)
    · exact locos_of_mayWriteLocos rfl rfl h
    · exact locos_of_mayWriteLocos rfl rfl h
  case noCreate =>
    rintro (⟨a, c, rfl⟩ | ⟨a, rfl⟩ | ⟨a, k, d, rfl⟩) b hb
    · rcases locos_of_locoMode h with hsame | ⟨old, new, hold, hput⟩
      · rwa [hsame]
      · have hba : b ≠ a := by
          rintro rfl
          exact absurd (hold.symm.trans hb) nofun
        rw [hput, locoGet_locoPut, if_neg hba, hb]
    · rcases locos_of_locoErase h with hsame | herase
      · rwa [hsame]
      · rw [herase, locoGet_locoErase, hb, ite_self]
    · rwa [locos_of_mayWriteLocos rfl rfl h]

/-! ### CV commands (R243 to R246) -/

/-- A service-mode request is queued at the back where the mode and the space are there (R243). -/
theorem queueSvc_of_room {P : Params} {e : SvcReq} {s : State} (hm : inDccMode s = true)
    (hroom : s.cvsvc.length < P.cvDequeCap) :
    queueSvc P e s = .next (respond 0x00 0 { s with cvsvc := s.cvsvc ++ [e] }) := by
  rw [queueSvc, if_pos hm, if_pos hroom]
  rfl

theorem queueSvc_of_full {P : Params} {e : SvcReq} {s : State} (hm : inDccMode s = true)
    (hfull : P.cvDequeCap ≤ s.cvsvc.length) : queueSvc P e s = .next (respond 0x02 0 s) := by
  rw [queueSvc, if_pos hm, if_neg (Nat.not_lt.mpr hfull)]
  rfl

theorem queueSvc_of_otherMode {P : Params} {e : SvcReq} {s : State} (hm : inDccMode s = false) :
    queueSvc P e s = .next (respond 0x05 0 s) := by
  rw [queueSvc, hm, if_neg Bool.false_ne_true]
  rfl

/-- Settles O28: both commands queue a request, each its own. -/
theorem cvServiceRule : Obligations.CvServiceRule := by
  intro k d s hs
  simp only [exec, execCvRead, execCvWrite, hostOnly_of_host hs]
  exact ⟨fun hm => ⟨queueSvc_of_otherMode hm, queueSvc_of_otherMode hm⟩,
    fun hm hfull => ⟨queueSvc_of_full hm hfull, queueSvc_of_full hm hfull⟩,
    fun hm hroom => ⟨queueSvc_of_room hm hroom, queueSvc_of_room hm hroom⟩⟩

/-- Settles O29: the checks in their order, then the request of a write, and that of a read with and without room for its loco. -/
theorem cvPomRule : Obligations.CvPomRule := by
  intro a k d s hs
  simp only [exec, execCvPomRead, execCvPomWrite, hostOnly_of_host hs]
  refine ⟨gotOrCreated_locoRecord _ a s, fun ha => ?illegal, fun ha hm => ?otherMode, fun ha hm hfull => ?full,
    fun ha hm hspace => ⟨?write, fun hroom => ?noLoco, fun hroom => ?read⟩⟩
  case illegal =>
    simp only [ha, Bool.false_eq_true, if_false]
    exact ⟨rfl, rfl⟩
  case otherMode =>
    simp only [ha, hm, Bool.false_eq_true, if_false, if_true]
    exact ⟨rfl, rfl⟩
  case full =>
    simp only [ha, hm, if_neg (Nat.not_lt.mpr hfull), if_true]
    exact ⟨rfl, rfl⟩
  case write =>
    simp only [ha, hm, if_pos hspace, if_true]
    rfl
  case noLoco =>
    simp only [ha, hm, if_pos hspace, if_true, getOrCreate_of_noRoom hroom]
    rfl
  case read =>
    simp only [ha, hm, if_pos hspace, if_true, getOrCreate_of_room hroom]
    cases hget : locoGet a s.locos with
    | none => simp only [lookedUp, hget]; rfl
    | some l => simp only [lookedUp, hget]; rfl

/-! ### Raw packet commands (R247, R248, R400, R430) -/

section
variable {operandOk admitted : Bool} {t : Target} {bytes : List Byte} {s : State}

theorem sendRaw_badOperand (ho : operandOk = false) : sendRaw operandOk admitted t bytes s = .next (respond 0x04 0 s) := by
  rw [sendRaw, ho, if_neg Bool.false_ne_true]
  rfl

theorem sendRaw_notOwner (ho : operandOk = true) (ha : admitted = false) :
    sendRaw operandOk admitted t bytes s = .next (respond 0x05 0 s) := by
  rw [sendRaw, if_pos ho, ha, if_neg Bool.false_ne_true]
  rfl

/-- The bytes as given wait for their queue, with `STATE` as it is now (R231, R247). -/
theorem sendRaw_left (ho : operandOk = true) (ha : admitted = true) :
    sendRaw operandOk admitted t bytes s =
      .next
        { s with host := { s.host with phase := .hPush, pend := some { target := t, bytes := bytes, adm := s.arbState } } } := by
  rw [sendRaw, if_pos ho, if_pos ha]
  rfl

end

theorem dccPayloadOk_iff {p : List Byte} : dccPayloadOk p = true ↔ 3 ≤ p.length ∧ p.length ≤ 6 ∧ xorAll p = 0 := by
  simp only [dccPayloadOk, Bool.and_eq_true, decide_eq_true_eq, beq_iff_eq, and_assoc]
  rfl

theorem decupPayloadOk_iff {P : Params} {p : List Byte} :
    decupPayloadOk P p = true ↔ 1 ≤ p.length ∧ p.length ≤ P.decupMaxPacket := by
  simp [decupPayloadOk]

theorem mduPayloadOk_iff {P : Params} {p : List Byte} :
    mduPayloadOk P p = true ↔ 1 ≤ p.length ∧ p.length ≤ P.mduMaxPacket := by
  simp [mduPayloadOk]

theorem inDecupMode_iff {s : State} :
    inDecupMode s = true ↔ s.arbState = modeValue .decupZpp ∨ s.arbState = modeValue .decupZsu := by
  simp [inDecupMode]

theorem inMduMode_iff {s : State} : inMduMode s = true ↔ s.arbState = modeValue .mduZpp ∨ s.arbState = modeValue .mduZsu := by
  simp [inMduMode]

/-- Settles O30: each command is a check of its payload, a check of the mode, and the bytes left for its queue. -/
theorem sendRule : Obligations.SendRule := by
  intro p s hs
  simp only [exec, execSendFront, execSendBack, execDecupTx, execMduTx, hostOnly_of_host hs, ← dccPayloadOk_iff,
    ← decupPayloadOk_iff, ← mduPayloadOk_iff, ← inDecupMode_iff, ← inMduMode_iff, Bool.not_eq_true]
  refine ⟨fun hp => ⟨fun hm => ?dccLeft, fun hm => ?dccMode⟩, fun hp => ?dccPayload,
    fun hp => ⟨sendRaw_left hp, fun hzpp hzsu => ?decupMode⟩, sendRaw_badOperand,
    fun hp => ⟨sendRaw_left hp, fun hzpp hzsu => ?mduMode⟩, sendRaw_badOperand⟩
  case dccLeft => exact ⟨sendRaw_left hp hm, sendRaw_left hp hm⟩
  case dccMode => exact ⟨sendRaw_notOwner hp hm, sendRaw_notOwner hp hm⟩
  case dccPayload => exact ⟨sendRaw_badOperand hp, sendRaw_badOperand hp⟩
  case decupMode =>
    exact sendRaw_notOwner hp (Bool.not_eq_true _ ▸ inDecupMode_iff.not.mpr (not_or.mpr ⟨hzpp, hzsu⟩))
  case mduMode =>
    exact sendRaw_notOwner hp (Bool.not_eq_true _ ▸ inMduMode_iff.not.mpr (not_or.mpr ⟨hzpp, hzsu⟩))

/-! ### Register commands (R118, R119, R249, R250) -/

/-- A setting is written alone (R119). -/
theorem getSetting_setSetting (c : Settings) (d : Byte) (x y : Setting) :
    getSetting (setSetting c d x) y = if y = x then some d else getSetting c y := by
  cases x <;> cases y <;> rfl

/-- The settings stand at the indices 0x01 to 0x0E (R118). -/
theorem settingOfIndex_isSome_iff (i : BitVec 8) :
    (settingOfIndex i).isSome = true ↔ 0x01 ≤ i.toNat ∧ i.toNat ≤ 0x0E := by
  revert i; decide

/-- Settles O31: a legal value; an illegal one; no setting; and that a setting is written alone. -/
theorem cfgWriteRule : Obligations.CfgWriteRule := by
  refine ⟨fun i d s hs => ⟨fun x hx hd => ?legal, fun x hx hd => ?illegal, fun hi => ?noSetting⟩, getSetting_setSetting,
    settingOfIndex_isSome_iff⟩
  case legal =>
    simp only [exec, execCfgWrite, hostOnly_of_host hs, hx, hd, if_true]
    rfl
  case illegal =>
    simp only [exec, execCfgWrite, hostOnly_of_host hs, hx, hd, Bool.false_eq_true, if_false]
    rfl
  case noSetting =>
    simp only [exec, execCfgWrite, hostOnly_of_host hs, hi]
    rfl

/-- `CFG_READ` of an index without a setting answers the view behind it (R119 (c)). -/
theorem exec_cfgRead_view {i : BitVec 8} {v : BitVec 16} {s : State} (hs : s.issuer = .host) (hi : settingOfIndex i = none)
    (hv : readOnlyCsr Config.params s i = some v) : exec (.cfgRead i) s = .next (respond 0x00 (v.setWidth 56) s) := by
  simp only [exec, execCfgRead, hostOnly_of_host hs, hi, hv]
  rfl

/-- A reserved index has neither a setting nor a view (R118, R119 (d)). -/
theorem exec_cfgRead_reserved {i : BitVec 8} {s : State} (hs : s.issuer = .host) (hi : settingOfIndex i = none)
    (hv : readOnlyCsr Config.params s i = none) : exec (.cfgRead i) s = .next (respond 0x04 0 s) := by
  simp only [exec, execCfgRead, hostOnly_of_host hs, hi, hv]
  rfl

/-- The views stand at the indices 0x00 and 0x20 to 0x27 (R118). -/
theorem readOnlyCsr_eq_none {P : Params} {s : State} {i : BitVec 8} (h : i.toNat ≠ 0 ∧ (i.toNat < 0x20 ∨ 0x27 < i.toNat)) :
    readOnlyCsr P s i = none := by
  unfold readOnlyCsr
  split
  case h_10 => rfl
  all_goals omega

theorem dccStatus_eq (p : DccPhase) :
    (dccStatus p).toNat = if p = .dIdle then 0 else if p = .dTeardown then 2 else 1 := by
  cases p <;> rfl

theorem decupStatus_eq (p : DecupPhase) :
    (decupStatus p).toNat = if p = .uIdle then 0 else if p = .uTeardown then 2 else 1 := by
  cases p <;> rfl

theorem mduStatus_eq (p : MduPhase) :
    (mduStatus p).toNat = if p = .mIdle then 0 else if p = .mTeardown then 2 else 1 := by
  cases p <;> rfl

/-- `DRIVER_STATUS` holds two bits of each driver (R118). -/
theorem driverStatus_setWidth (x y z : BitVec 2) :
    ((z ++ y ++ x).setWidth 16).setWidth 56 = BitVec.ofNat 56 (x.toNat + 4 * y.toNat + 16 * z.toNat) := by
  revert x y z; decide

/-- A number of 8 bits is answered as it is. -/
theorem byteView_setWidth {n : Nat} (h : n < 256) :
    ((BitVec.ofNat 8 n).setWidth 16).setWidth 56 = BitVec.ofNat 56 n := by
  apply BitVec.eq_of_toNat_eq
  simp only [BitVec.toNat_setWidth, BitVec.toNat_ofNat]
  omega

theorem flagView_setWidth (b : Bool) : ((BitVec.ofBool b).setWidth 16).setWidth 56 = if b then 1#56 else 0#56 := by
  cases b <;> rfl

/-- Settles O32: a setting with a value and without; each view by its index; a reserved index. -/
theorem cfgReadRule : Obligations.CfgReadRule := by
  intro i s hs
  have hview : ∀ {j : BitVec 8} {v : BitVec 16} {w : BitVec 56}, settingOfIndex j = none →
      readOnlyCsr Config.params s j = some v → v.setWidth 56 = w → exec (.cfgRead j) s = .next (respond 0x00 w s) := by
    rintro j v _ hj hv rfl
    exact exec_cfgRead_view hs hj hv
  refine ⟨fun x d hx hd => ?value, fun x hx hd => ?uninit, hview rfl rfl rfl,
    fun hn => hview rfl rfl (byteView_setWidth hn), hview rfl rfl (BitVec.setWidth_setWidth (by omega)),
    hview rfl rfl (flagView_setWidth _), hview rfl rfl ?status, hview rfl rfl (BitVec.setWidth_setWidth (by omega)),
    hview rfl rfl (flagView_setWidth _), fun hn => hview rfl rfl ?cvsvc, fun hn => hview rfl rfl ?cvpom,
    fun hlow hhigh => ?reserved⟩
  case value =>
    simp only [exec, execCfgRead, hostOnly_of_host hs, hx, hd]
    rfl
  case uninit =>
    simp only [exec, execCfgRead, hostOnly_of_host hs, hx, hd]
    rfl
  case status => rw [driverStatus_setWidth, dccStatus_eq, decupStatus_eq, mduStatus_eq]
  case cvsvc => rw [countByte, if_pos hn, byteView_setWidth (Nat.lt_succ_of_le hn)]
  case cvpom => rw [countByte, if_pos hn, byteView_setWidth (Nat.lt_succ_of_le hn)]
  case reserved =>
    refine exec_cfgRead_reserved hs ?_ (readOnlyCsr_eq_none ⟨by omega, hhigh⟩)
    exact Option.not_isSome_iff_eq_none.mp fun h => by
      have := (settingOfIndex_isSome_iff i).mp h
      omega

end Sys2Proof.Machine
end

section
/-! SCHED's guard and its abandon step (R253, R290), and the operations loop phase by phase (R254 to R261). -/

namespace Sys2Proof.Machine

/-! ### The guard (R253) -/

/-- The phases of the operations loop, in which `STATE` is `DCCOperations`. -/
def operationsPhases : List SchedPhase :=
  [.opsStart, .opsIdleFill, .opsLoco, .opsPassEnd, .opsSvc, .opsPom, .opsBidi, .swToSvc]

/-- The phases of the service loop, in which `STATE` is `DCCService`. -/
def servicePhases : List SchedPhase :=
  [.svcEntry, .svcStartReset, .svcNext, .svcRun, .attProg, .attReset, .attWait, .swToOps]

section
variable {s t : State} {rest : List Move}

theorem schedGuard_of_operations (hp : s.sched.phase ∈ operationsPhases) :
    schedGuard s = (s.arbState == modeValue .dccOperations) := by
  simp only [operationsPhases, List.mem_cons, List.not_mem_nil, or_false] at hp
  rcases hp with hp | hp | hp | hp | hp | hp | hp | hp <;> simp only [schedGuard, hp]

theorem schedGuard_of_service (hp : s.sched.phase ∈ servicePhases) :
    schedGuard s = (s.arbState == modeValue .dccService) := by
  simp only [servicePhases, List.mem_cons, List.not_mem_nil, or_false] at hp
  rcases hp with hp | hp | hp | hp | hp | hp | hp | hp <;> simp only [schedGuard, hp]

theorem schedGuard_of_waiting (hp : s.sched.phase ∈ [.swWaitSvc, .swWaitOps]) :
    schedGuard s = (s.arbState == stSuspend || s.arbState == stSuspended) := by
  simp only [List.mem_cons, List.not_mem_nil, or_false] at hp
  rcases hp with hp | hp <;> simp only [schedGuard, hp]

/-- SCHED's step while its guard holds. -/
theorem step_sched (hnext : NextIs s .sched rest) (hguard : schedGuard (took rest s) = true)
    (hact : schedAct Config.params (took rest s) = .run [] t) : step s = .next t :=
  step_of_moveStep hnext ((if_pos hguard).trans hact)

/-- SCHED's step in the operations loop. -/
theorem step_operations (hnext : NextIs s .sched rest) (hs : s.arbState = modeValue .dccOperations)
    (hp : s.sched.phase ∈ operationsPhases) (hact : schedAct Config.params (took rest s) = .run [] t) : step s = .next t :=
  step_sched hnext ((schedGuard_of_operations (s := took rest s) hp).trans (beq_iff_eq.mpr hs)) hact

/-- SCHED's step in the service loop. -/
theorem step_service (hnext : NextIs s .sched rest) (hs : s.arbState = modeValue .dccService)
    (hp : s.sched.phase ∈ servicePhases) (hact : schedAct Config.params (took rest s) = .run [] t) : step s = .next t :=
  step_sched hnext ((schedGuard_of_service (s := took rest s) hp).trans (beq_iff_eq.mpr hs)) hact

/-- SCHED abandons once its guard fails. -/
theorem step_abandon (hnext : NextIs s .sched rest) (hguard : schedGuard s = false) :
    step s = .next (abandon (took rest s)) :=
  step_of_moveStep hnext (if_neg ((Bool.eq_false_iff (b := schedGuard (took rest s))).mp hguard))

end

/-- Settles O57: the guard fails in each kind of phase, and the abandon step answers the queues in order. -/
theorem abandonRule : Obligations.AbandonRule := by
  rintro s rest ev hnext hphase rfl
  have hguard : schedGuard s = false := by
    rcases hphase with ⟨hp, hs⟩ | ⟨hp, hs⟩ | ⟨hp, hsuspend, hsuspended⟩
    · exact (schedGuard_of_operations hp).trans (beq_eq_false_iff_ne.mpr hs)
    · exact (schedGuard_of_service hp).trans (beq_eq_false_iff_ne.mpr hs)
    · rw [schedGuard_of_waiting hp, Bool.or_eq_false_iff]
      exact ⟨beq_eq_false_iff_ne.mpr hsuspend, beq_eq_false_iff_ne.mpr hsuspended⟩
  rw [step_abandon hnext hguard, abandon, nackAll_eq]
  rfl

/-! ### The phases of the operations loop, by result (R254 to R261) -/

section
variable {P : Params} {s : State} {a : Addr} {l : Loco}

theorem schedIdle_of_operations (h : s.arbState = modeValue .dccOperations) :
    schedIdle s = { s with sched := { s.sched with selfSuspend := false, phase := .opsStart } } :=
  if_pos h

theorem schedIdle_of_service (h : s.arbState = modeValue .dccService) :
    schedIdle s = { s with sched := { s.sched with selfSuspend := false, phase := .svcEntry } } := by
  have hops : s.arbState ≠ modeValue .dccOperations := fun h' => absurd (modeValue_injective (h.symm.trans h')) nofun
  rw [schedIdle, if_neg hops, if_pos h]

theorem opsStart_of_crowded (h : 2 * backFree P s < P.backCap) :
    opsStart P s = { s with sched := { s.sched with phase := .opsSvc } } :=
  if_pos h

theorem opsStart_of_noLoco (h : P.backCap ≤ 2 * backFree P s) (hl : s.locos = []) :
    opsStart P s = { s with sched := { s.sched with phase := .opsIdleFill } } := by
  rw [opsStart, if_neg (Nat.not_lt.mpr h), hl]
  rfl

theorem opsStart_of_first (h : P.backCap ≤ 2 * backFree P s) (ha : locoFirst s.locos = some a) :
    opsStart P s = { s with sched := { s.sched with it := some a, k := 0, phase := .opsLoco } } := by
  simp only [opsStart, if_neg (Nat.not_lt.mpr h), ha]

theorem opsIdleFill_of_crowded (h : 4 * backFree P s < P.backCap) :
    opsIdleFill P s = { s with sched := { s.sched with phase := .opsSvc } } :=
  if_pos h

theorem opsIdleFill_of_room (h : P.backCap ≤ 4 * backFree P s) :
    opsIdleFill P s = { s with backq := s.backq ++ [{ bytes := [0xFF, 0x00, 0xFF] }] } :=
  if_neg (Nat.not_lt.mpr h)

/-- A loco that was erased is passed. -/
theorem opsLoco_of_erased (hl : locoGet a s.locos = none) :
    opsLoco P a s = { s with sched := schedPast a s.locos s.sched } := by
  simp only [opsLoco, hl, advanceLoco_eq]

/-- A loco whose turn it is not is passed. -/
theorem opsLoco_of_notDue (hl : locoGet a s.locos = some l) (hk : s.sched.k = 0) (hd : s.priorityCount % l.priority ≠ 0) :
    opsLoco P a s = { s with sched := schedPast a s.locos s.sched } := by
  simp only [opsLoco, hl, if_pos (And.intro hk hd), advanceLoco_eq]

theorem opsLoco_of_crowded (hl : locoGet a s.locos = some l) (hdue : s.sched.k = 0 → s.priorityCount % l.priority = 0)
    (h : 4 * backFree P s < P.backCap) :
    opsLoco P a s = { s with sched := { s.sched with it := none, k := 0, phase := .opsSvc } } := by
  have hdue' : ¬(s.sched.k = 0 ∧ s.priorityCount % l.priority ≠ 0) := fun ⟨hk, hd⟩ => hd (hdue hk)
  simp only [opsLoco, hl, if_neg hdue', if_pos h]

/-- A loco gets its next packet, and ages after the last (R258). -/
theorem opsLoco_of_room {p : LocoPacket} (hl : locoGet a s.locos = some l)
    (hdue : s.sched.k = 0 → s.priorityCount % l.priority = 0) (h : P.backCap ≤ 4 * backFree P s)
    (hp : (locoPackets P)[s.sched.k]? = some p) :
    opsLoco P a s =
      if s.sched.k + 1 = (locoPackets P).length then
        { s with
          backq := s.backq ++ [{ bytes := buildPacket a l p }]
          locos := locoPut a { l with priority := min (l.priority + 1) P.maxPriority } s.locos
          sched := schedPast a s.locos s.sched }
      else
        { s with
          backq := s.backq ++ [{ bytes := buildPacket a l p }]
          sched := { s.sched with k := s.sched.k + 1 } } := by
  have hdue' : ¬(s.sched.k = 0 ∧ s.priorityCount % l.priority ≠ 0) := fun ⟨hk, hd⟩ => hd (hdue hk)
  simp only [opsLoco, hl, if_neg hdue', if_neg (Nat.not_lt.mpr h), hp, advanceLoco_eq, setLoco, schedPast,
    locoAfter_locoPut]
  rfl

/-- With less than a quarter of `BACKQ` free the loco pass pushes nothing (R258 (b)). -/
theorem opsLoco_backq_of_crowded (h : 4 * backFree P s < P.backCap) : (opsLoco P a s).backq = s.backq := by
  cases hl : locoGet a s.locos with
  | none => rw [opsLoco_of_erased hl]
  | some l =>
    by_cases hdue : s.sched.k = 0 → s.priorityCount % l.priority = 0
    · rw [opsLoco_of_crowded hl hdue h]
    · obtain ⟨hk, hd⟩ := Classical.not_imp.mp hdue
      rw [opsLoco_of_notDue hl hk hd]

/-- At `MAXP` the counter and every priority start again (R259). -/
theorem opsPassEnd_of_last (h : P.maxPriority ≤ s.priorityCount + 1) :
    opsPassEnd P s =
      { s with
        priorityCount := 1
        locos := s.locos.map fun e => (e.1, { e.2 with priority := 1 })
        sched := { s.sched with phase := .opsSvc } } := by
  simp only [opsPassEnd, if_pos (Nat.min_eq_right h)]
  rfl

theorem opsPassEnd_of_less (h : s.priorityCount + 1 < P.maxPriority) :
    opsPassEnd P s = { s with priorityCount := s.priorityCount + 1, sched := { s.sched with phase := .opsSvc } } := by
  simp only [opsPassEnd, Nat.min_eq_left (Nat.le_of_lt h), if_neg (Nat.ne_of_lt h)]

theorem opsSvc_of_service (h : s.cvsvc ≠ []) : opsSvc s = { s with sched := { s.sched with phase := .swToSvc } } :=
  if_pos h

theorem opsSvc_of_unsent {e : PomReq} {more : List PomReq} (hv : s.cvsvc = []) (hq : s.cvpom = e :: more)
    (he : e.sent = false) : opsSvc s = { s with sched := { s.sched with r := 0, phase := .opsPom } } := by
  simp only [opsSvc, hv, hq, he, ne_eq, not_true_eq_false, if_false, Bool.false_eq_true]

theorem opsSvc_of_nothing (hv : s.cvsvc = []) (hq : ∀ e more, s.cvpom = e :: more → e.sent = true) :
    opsSvc s = { s with sched := { s.sched with phase := .opsBidi } } := by
  cases hpom : s.cvpom with
  | nil => simp only [opsSvc, hv, hpom, ne_eq, not_true_eq_false, if_false]
  | cons e more => simp only [opsSvc, hv, hpom, hq e more hpom, ne_eq, not_true_eq_false, if_false, if_true]

theorem opsPom_of_room {e : PomReq} {more : List PomReq} (hq : s.cvpom = e :: more) (hr : s.sched.r < P.pomRepeat)
    (hroom : s.frontq.length < P.frontCap) :
    opsPom P s =
      { s with frontq := s.frontq ++ [{ bytes := pomPacket e }], sched := { s.sched with r := s.sched.r + 1 } } := by
  simp only [opsPom, hq, if_pos hr, frontFree, if_pos (Nat.sub_pos_of_lt hroom), pushFront]

theorem opsPom_of_full {e : PomReq} {more : List PomReq} (hq : s.cvpom = e :: more) (hr : s.sched.r < P.pomRepeat)
    (hfull : P.frontCap ≤ s.frontq.length) : opsPom P s = s := by
  simp only [opsPom, hq, if_pos hr, frontFree, Nat.sub_eq_zero_of_le hfull, Nat.lt_irrefl, if_false]

theorem opsPom_of_sent {e : PomReq} {more : List PomReq} (hq : s.cvpom = e :: more) (hr : P.pomRepeat ≤ s.sched.r) :
    opsPom P s = { s with cvpom := { e with sent := true } :: more, sched := { s.sched with phase := .opsBidi } } := by
  simp only [opsPom, hq, if_neg (Nat.not_lt.mpr hr)]

/-- An expired POM request is popped and answered (R261). -/
theorem opsBidi_of_expired {e : PomReq} {more : List PomReq} (hf : s.feedbackq = []) (hq : s.cvpom = e :: more)
    (hd : e.deadline ≤ s.now) :
    opsBidi P s = .run [] { s with cvpom := more, events := s.events ++ [eventWord 0x02#8 e.addr e.cvi 0] } := by
  simp only [opsBidi, hf, hq, if_pos hd]
  rfl

theorem opsBidi_of_waiting (hf : s.feedbackq = []) (hq : ∀ e more, s.cvpom = e :: more → s.now < e.deadline) :
    opsBidi P s = .run [] { s with sched := { s.sched with phase := .opsStart } } := by
  cases hpom : s.cvpom with
  | nil => simp only [opsBidi, hf, hpom]
  | cons e more => simp only [opsBidi, hf, hpom, if_neg (Nat.not_le.mpr (hq e more hpom))]

end

/-! ### The steps of the operations loop -/

section
variable {s : State} {rest : List Move}

theorem step_schedIdle (hnext : NextIs s .sched rest) (hp : s.sched.phase = .idle) :
    step s = .next (schedIdle (took rest s)) :=
  step_sched hnext (by simp only [schedGuard, took_sched, hp]) (by simp only [schedAct, took_sched, hp])

variable (hnext : NextIs s .sched rest) (hs : s.arbState = modeValue .dccOperations)
include hnext hs

theorem step_opsStart (hp : s.sched.phase = .opsStart) : step s = .next (opsStart Config.params (took rest s)) :=
  step_operations hnext hs (by simp [operationsPhases, hp]) (by simp only [schedAct, took_sched, hp])

theorem step_opsIdleFill (hp : s.sched.phase = .opsIdleFill) : step s = .next (opsIdleFill Config.params (took rest s)) :=
  step_operations hnext hs (by simp [operationsPhases, hp]) (by simp only [schedAct, took_sched, hp])

theorem step_opsLoco {a : Addr} (hp : s.sched.phase = .opsLoco) (ha : s.sched.it = some a) :
    step s = .next (opsLoco Config.params a (took rest s)) :=
  step_operations hnext hs (by simp [operationsPhases, hp]) (by simp only [schedAct, took_sched, hp, ha])

/-- The loco pass is held where it has no loco (log 20). -/
theorem step_opsLoco_held (hp : s.sched.phase = .opsLoco) (ha : s.sched.it = none) : step s = .next (took rest s) :=
  step_operations hnext hs (by simp [operationsPhases, hp]) (by simp only [schedAct, took_sched, hp, ha])

theorem step_opsPassEnd (hp : s.sched.phase = .opsPassEnd) : step s = .next (opsPassEnd Config.params (took rest s)) :=
  step_operations hnext hs (by simp [operationsPhases, hp]) (by simp only [schedAct, took_sched, hp])

theorem step_opsSvc (hp : s.sched.phase = .opsSvc) : step s = .next (opsSvc (took rest s)) :=
  step_operations hnext hs (by simp [operationsPhases, hp]) (by simp only [schedAct, took_sched, hp])

theorem step_opsPom (hp : s.sched.phase = .opsPom) : step s = .next (opsPom Config.params (took rest s)) :=
  step_operations hnext hs (by simp [operationsPhases, hp]) (by simp only [schedAct, took_sched, hp])

theorem step_opsBidi {t : State} (hp : s.sched.phase = .opsBidi) (ht : opsBidi Config.params (took rest s) = .run [] t) :
    step s = .next t :=
  step_operations hnext hs (by simp [operationsPhases, hp]) (by simp only [schedAct, took_sched, hp, ht])

/-- With less than a quarter of `BACKQ` free neither fill nor loco pass pushes (R256, R258 (b)). -/
theorem step_backq_of_crowded (hp : s.sched.phase = .opsIdleFill ∨ s.sched.phase = .opsLoco)
    (hcrowded : 4 * backFree Config.params s < Config.params.backCap) : ∃ t, step s = .next t ∧ t.backq = s.backq := by
  rcases hp with hp | hp
  · refine ⟨_, step_opsIdleFill hnext hs hp, ?_⟩
    rw [opsIdleFill_of_crowded (s := took rest s) hcrowded]
    rfl
  · cases ha : s.sched.it with
    | none => exact ⟨_, step_opsLoco_held hnext hs hp ha, rfl⟩
    | some a => exact ⟨_, step_opsLoco hnext hs hp ha, opsLoco_backq_of_crowded (s := took rest s) hcrowded⟩

end

/-- Settles O56: each clause is the step of its phase, with the result of that phase. -/
theorem operationsLoop : Obligations.OperationsLoop := by
  rintro s rest free hnext rfl
  refine ⟨fun hp => ?idle, fun hs => ⟨fun hp => ?start, fun hp hc => step_backq_of_crowded hnext hs hp hc, fun hp => ?fill,
    fun a hp ha => ?loco, fun hp => ?passEnd, fun hp => ?svc, fun e more hp hq => ?pom, fun hp hf => ?bidi⟩⟩
  case idle =>
    have hstep := step_schedIdle hnext hp
    exact ⟨fun h => hstep.trans (congrArg _ (schedIdle_of_operations h)),
      fun h => hstep.trans (congrArg _ (schedIdle_of_service h)),
      fun ho hv => step_of_moveStep hnext (schedStep_held (s := took rest s) hp ho hv)⟩
  case start =>
    have hstep := step_opsStart hnext hs hp
    exact ⟨fun h => hstep.trans (congrArg _ (opsStart_of_crowded h)), fun h =>
      ⟨fun hl => hstep.trans (congrArg _ (opsStart_of_noLoco h hl)),
        fun a ha => hstep.trans (congrArg _ (opsStart_of_first h ha))⟩⟩
  case fill =>
    have hstep := step_opsIdleFill hnext hs hp
    exact ⟨fun h => hstep.trans (congrArg _ (opsIdleFill_of_crowded h)),
      fun h => hstep.trans (congrArg _ (opsIdleFill_of_room h))⟩
  case loco =>
    have hstep := step_opsLoco hnext hs hp ha
    exact ⟨fun hl => hstep.trans (congrArg _ (opsLoco_of_erased hl)), fun l hl =>
      ⟨fun hk hd => hstep.trans (congrArg _ (opsLoco_of_notDue hl hk hd)), fun hdue =>
        ⟨fun h => hstep.trans (congrArg _ (opsLoco_of_crowded hl hdue h)),
          fun p h hpacket => hstep.trans (congrArg _ (opsLoco_of_room hl hdue h hpacket))⟩⟩⟩
  case passEnd =>
    have hstep := step_opsPassEnd hnext hs hp
    exact ⟨fun h => hstep.trans (congrArg _ (opsPassEnd_of_last h)),
      fun h => hstep.trans (congrArg _ (opsPassEnd_of_less h))⟩
  case svc =>
    have hstep := step_opsSvc hnext hs hp
    exact ⟨fun hv => hstep.trans (congrArg _ (opsSvc_of_service hv)),
      fun e more hv hq he => hstep.trans (congrArg _ (opsSvc_of_unsent hv hq he)),
      fun hv hq => hstep.trans (congrArg _ (opsSvc_of_nothing hv hq))⟩
  case pom =>
    have hstep := step_opsPom hnext hs hp
    exact ⟨fun hr hroom => hstep.trans (congrArg _ (opsPom_of_room hq hr hroom)),
      fun hr hfull => hstep.trans (congrArg _ (opsPom_of_full (s := took rest s) hq hr hfull)),
      fun hr => hstep.trans (congrArg _ (opsPom_of_sent hq hr))⟩
  case bidi =>
    exact ⟨fun e more hq hd => step_opsBidi hnext hs hp (opsBidi_of_expired hf hq hd),
      fun hq => step_opsBidi hnext hs hp (opsBidi_of_waiting hf hq)⟩

end Sys2Proof.Machine
end

section
/-! The switches of SCHED and the service loop phase by phase (R262 to R267, R272, R280, R281), and what an ack bit or a timeout does
in each service algorithm (R270, R273 to R275). -/

namespace Sys2Proof.Machine

/-! ### The switches and the service loop, by result (R262 to R267, R280, R281) -/

/-- The number a setting holds is that of its byte. -/
theorem settingNat_of_getSetting {c : Settings} {x : Setting} {d : Byte} (h : getSetting c x = some d) :
    settingNat c x = some d.toNat :=
  congrArg (Option.map BitVec.toNat) h

theorem settingNat_programmingType {c : Settings} {d : Byte} (h : c.programmingType = some d) :
    settingNat c .programmingType = some d.toNat :=
  settingNat_of_getSetting h

section
variable {P : Params} {s : State}

/-- SCHED gives up the mode it holds (R262, R280). -/
theorem switchAway_of_held {m : Mode} {p : SchedPhase} (h : s.arbState = modeValue m) :
    switchAway m p s = { s with arbState := stSuspend, sched := { s.sched with selfSuspend := true, phase := p } } := by
  simp only [switchAway, cas, if_pos h]

/-- SCHED enters a DCC mode from `Suspended`, with DCCDRV resumed (R263, R281). -/
theorem switchInto_of_suspended {m : Mode} {p : SchedPhase} (hm : driverOf m = .dcc) (h : s.arbState = stSuspended) :
    switchInto m p s =
      { s with
        arbState := modeValue m, dcc := { s.dcc with resume := true }
        sched := { s.sched with selfSuspend := false, phase := p } } := by
  simp only [switchInto, if_pos h, enterMode, hm]

theorem svcEntry_of_latched (hm : s.dcc.mode = some .dccService) (hidle : s.dcc.phase ≠ .dIdle) (hinit : s.dcc.phase ≠ .dInit) :
    svcEntry s = { s with sched := { s.sched with r := 0, phase := .svcStartReset } } :=
  if_pos ⟨hm, hidle, hinit⟩

theorem svcEntry_of_unlatched (h : s.dcc.mode ≠ some .dccService ∨ s.dcc.phase = .dIdle ∨ s.dcc.phase = .dInit) :
    svcEntry s = s := by
  refine if_neg fun ⟨hm, hidle, hinit⟩ => ?_
  rcases h with h | h | h
  · exact h hm
  · exact hidle h
  · exact hinit h

theorem backFree_pos (h : s.backq.length < P.backCap) : 0 < backFree P s :=
  Nat.sub_pos_of_lt h

section
variable {n : Byte} (hn : s.act.startupResetPacketCount = some n)
include hn

theorem settingNat_startupReset : settingNat s.act .startupResetPacketCount = some n.toNat :=
  settingNat_of_getSetting hn

theorem svcStartReset_of_room (hr : s.sched.r < n.toNat) (hroom : s.backq.length < P.backCap) :
    svcStartReset P s =
      { s with
        backq := s.backq ++ [{ bytes := [0x00, 0x00, 0x00] }], sched := { s.sched with r := s.sched.r + 1 } } := by
  simp only [svcStartReset, settingNat_startupReset hn, if_pos hr, if_pos (backFree_pos hroom)]
  rfl

theorem svcStartReset_of_full (hr : s.sched.r < n.toNat) (hfull : P.backCap ≤ s.backq.length) : svcStartReset P s = s := by
  have hnone : backFree P s = 0 := Nat.sub_eq_zero_of_le hfull
  simp only [svcStartReset, settingNat_startupReset hn, if_pos hr, hnone, Nat.lt_irrefl, if_false]

theorem svcStartReset_of_done (hr : n.toNat ≤ s.sched.r) :
    svcStartReset P s = { s with sched := { s.sched with phase := .svcNext } } := by
  simp only [svcStartReset, settingNat_startupReset hn, if_neg (Nat.not_lt.mpr hr)]

end

theorem svcNext_of_none (h : s.cvsvc = []) : svcNext s = { s with sched := { s.sched with phase := .swToOps } } := by
  simp only [svcNext, h]

theorem svcNext_of_request {e : SvcReq} {more : List SvcReq} (h : s.cvsvc = e :: more) :
    svcNext s = { s with sched := { s.sched with req := some e, phase := .svcRun } } := by
  simp only [svcNext, h]

section
variable {e : SvcReq} (he : s.sched.req = some e)
include he

theorem svcRun_of_write (hop : e.op = .write) :
    svcRun P s =
      { s with
        ackbuf := none
        sched :=
          { s.sched with alg := some .write, attPkt := some (svcWriteByte e.cvi e.data), r := 0, phase := .attProg } } := by
  simp only [svcRun, he, hop, startAttempt]

theorem svcRun_of_byteRead (hop : e.op = .read) (hty : s.act.programmingType = some 1) :
    svcRun P s =
      { s with
        ackbuf := none
        sched :=
          { s.sched with
            alg := some .byte, v := 0, attPkt := some (svcVerifyByte e.cvi 0), r := 0, phase := .attProg } } := by
  have hset : settingNat s.act .programmingType = some 1 := settingNat_programmingType hty
  simp only [svcRun, he, hop, hset, if_true, startAttempt]

theorem svcRun_of_bitRead (hop : e.op = .read) (hty : s.act.programmingType = some 2 ∨ s.act.programmingType = some 3) :
    svcRun P s =
      { s with
        ackbuf := none
        sched :=
          { s.sched with
            alg := some .bit, i := 0, acks := 0, attPkt := some (svcVerifyBit e.cvi P.bitVerifyPol 0)
            r := 0, phase := .attProg } } := by
  obtain ⟨n, hset, hn⟩ : ∃ n, settingNat s.act .programmingType = some n ∧ n ≠ 1 := by
    rcases hty with hty | hty
    · exact ⟨2, settingNat_programmingType hty, by decide⟩
    · exact ⟨3, settingNat_programmingType hty, by decide⟩
  simp only [svcRun, he, hop, hset, if_neg hn, startAttempt]

end

/-! ### The packets of an attempt (R272) -/

/-- The program packets with their tags; after the last come the reset packets, or the wait where there are none (log 19). -/
theorem attProg_of_room {np nc : Byte} {pkt : List Byte} (hnp : s.act.programPacketCount = some np)
    (hnc : s.act.continueResetPacketCount = some nc) (hroom : s.backq.length < P.backCap) (hpkt : s.sched.attPkt = some pkt)
    (hr : s.sched.r < np.toNat) :
    attProg P s =
      { s with
        backq :=
          s.backq ++
            [{ bytes := pkt, first := decide (s.sched.r = 0), last := decide (s.sched.r + 1 = np.toNat ∧ nc = 0) }]
        sched :=
          if s.sched.r + 1 < np.toNat then { s.sched with r := s.sched.r + 1 }
          else if nc = 0 then { s.sched with r := s.sched.r + 1, waitDeadline := s.now + 2560000, phase := .attWait }
          else { s.sched with r := 0, phase := .attReset } } := by
  have hsetp : settingNat s.act .programPacketCount = some np.toNat := settingNat_of_getSetting hnp
  have hsetc : settingNat s.act .continueResetPacketCount = some nc.toNat := settingNat_of_getSetting hnc
  have hzero : nc.toNat = 0 ↔ nc = 0 := BitVec.toNat_eq (y := 0#8).symm
  simp only [attProg, hsetp, hsetc, hpkt, if_pos hr, if_pos (backFree_pos hroom), hzero]
  by_cases hlast : s.sched.r + 1 = np.toNat
  · have hmore : ¬s.sched.r + 1 < np.toNat := by omega
    rw [if_pos hlast, if_neg hmore]
    by_cases hreset : nc = 0
    · rw [attProgDone, if_neg (Nat.not_lt.mpr (Nat.le_of_eq (hzero.mpr hreset))), if_pos hreset]
      rfl
    · rw [attProgDone, if_pos (Nat.pos_of_ne_zero (mt hzero.mp hreset)), if_neg hreset]
      rfl
  · have hmore : s.sched.r + 1 < np.toNat := by omega
    rw [if_neg hlast, if_pos hmore]
    rfl

/-- The reset packets of an attempt, after the last of which the wait begins (log 19). -/
theorem attReset_of_room {nc : Byte} (hnc : s.act.continueResetPacketCount = some nc) (hroom : s.backq.length < P.backCap)
    (hr : s.sched.r < nc.toNat) :
    attReset P s =
      { s with
        backq := s.backq ++ [{ bytes := [0x00, 0x00, 0x00], last := decide (s.sched.r + 1 = nc.toNat) }]
        sched :=
          if s.sched.r + 1 < nc.toNat then { s.sched with r := s.sched.r + 1 }
          else { s.sched with r := s.sched.r + 1, waitDeadline := s.now + 2560000, phase := .attWait } } := by
  have hsetc : settingNat s.act .continueResetPacketCount = some nc.toNat := settingNat_of_getSetting hnc
  simp only [attReset, hsetc, if_pos hr, if_pos (backFree_pos hroom)]
  by_cases hlast : s.sched.r + 1 = nc.toNat
  · have hmore : ¬s.sched.r + 1 < nc.toNat := by omega
    rw [if_pos hlast, if_neg hmore]
    rfl
  · have hmore : s.sched.r + 1 < nc.toNat := by omega
    rw [if_neg hlast, if_pos hmore]
    rfl

end

/-! ### The steps of the switches and of the service loop -/

section
variable {s : State} {rest : List Move} (hnext : NextIs s .sched rest)
include hnext

theorem step_swToSvc (hs : s.arbState = modeValue .dccOperations) (hp : s.sched.phase = .swToSvc) :
    step s = .next (switchAway .dccOperations .swWaitSvc (took rest s)) :=
  step_operations hnext hs (by simp [operationsPhases, hp]) (by simp only [schedAct, took_sched, hp])

theorem step_swWaitSvc (hs : s.arbState = stSuspended) (hp : s.sched.phase = .swWaitSvc) :
    step s = .next (switchInto .dccService .svcEntry (took rest s)) :=
  step_sched hnext (by simp [schedGuard, hp, hs]) (by simp only [schedAct, took_sched, hp])

theorem step_swWaitOps (hs : s.arbState = stSuspended) (hp : s.sched.phase = .swWaitOps) :
    step s = .next (switchInto .dccOperations .opsStart (took rest s)) :=
  step_sched hnext (by simp [schedGuard, hp, hs]) (by simp only [schedAct, took_sched, hp])

variable (hs : s.arbState = modeValue .dccService)
include hs

theorem step_swToOps (hp : s.sched.phase = .swToOps) :
    step s = .next (switchAway .dccService .swWaitOps (took rest s)) :=
  step_service hnext hs (by simp [servicePhases, hp]) (by simp only [schedAct, took_sched, hp])

theorem step_svcEntry (hp : s.sched.phase = .svcEntry) : step s = .next (svcEntry (took rest s)) :=
  step_service hnext hs (by simp [servicePhases, hp]) (by simp only [schedAct, took_sched, hp])

theorem step_svcStartReset (hp : s.sched.phase = .svcStartReset) :
    step s = .next (svcStartReset Config.params (took rest s)) :=
  step_service hnext hs (by simp [servicePhases, hp]) (by simp only [schedAct, took_sched, hp])

theorem step_svcNext (hp : s.sched.phase = .svcNext) : step s = .next (svcNext (took rest s)) :=
  step_service hnext hs (by simp [servicePhases, hp]) (by simp only [schedAct, took_sched, hp])

theorem step_svcRun (hp : s.sched.phase = .svcRun) : step s = .next (svcRun Config.params (took rest s)) :=
  step_service hnext hs (by simp [servicePhases, hp]) (by simp only [schedAct, took_sched, hp])

theorem step_attProg (hp : s.sched.phase = .attProg) : step s = .next (attProg Config.params (took rest s)) :=
  step_service hnext hs (by simp [servicePhases, hp]) (by simp only [schedAct, took_sched, hp])

theorem step_attReset (hp : s.sched.phase = .attReset) : step s = .next (attReset Config.params (took rest s)) :=
  step_service hnext hs (by simp [servicePhases, hp]) (by simp only [schedAct, took_sched, hp])

theorem step_attWait (hp : s.sched.phase = .attWait) : step s = .next (attWait Config.params (took rest s)) :=
  step_service hnext hs (by simp [servicePhases, hp]) (by simp only [schedAct, took_sched, hp])

end

/-- Settles O58: the four switches, then each clause of the service loop is the step of its phase, with the result of that phase. -/
theorem serviceLoop : Obligations.ServiceLoop := by
  intro s rest hnext
  refine ⟨fun hp hs => ?toSvc, fun hp hs => ?intoSvc, fun hp hs => ?toOps, fun hp hs => ?intoOps, fun hs =>
    ⟨fun hp => ?entry, fun n hp hn => ?startReset, fun hp hq => ?noRequest, fun e more hp hq => ?request,
      fun e hp he => ?run, fun np nc pkt hnp hnc hroom => ⟨fun hp hpkt hr => ?prog, fun hp hr => ?reset⟩⟩⟩
  case toSvc => exact (step_swToSvc hnext hs hp).trans (congrArg _ (switchAway_of_held hs))
  case intoSvc => exact (step_swWaitSvc hnext hs hp).trans (congrArg _ (switchInto_of_suspended rfl hs))
  case toOps => exact (step_swToOps hnext hs hp).trans (congrArg _ (switchAway_of_held hs))
  case intoOps => exact (step_swWaitOps hnext hs hp).trans (congrArg _ (switchInto_of_suspended rfl hs))
  case entry =>
    have hstep := step_svcEntry hnext hs hp
    exact ⟨fun hm hidle hinit => hstep.trans (congrArg _ (svcEntry_of_latched hm hidle hinit)),
      fun h => hstep.trans (congrArg _ (svcEntry_of_unlatched (s := took rest s) h))⟩
  case startReset =>
    have hstep := step_svcStartReset hnext hs hp
    exact ⟨fun hr hroom => hstep.trans (congrArg _ (svcStartReset_of_room hn hr hroom)),
      fun hr hfull => hstep.trans (congrArg _ (svcStartReset_of_full (s := took rest s) hn hr hfull)),
      fun hr => hstep.trans (congrArg _ (svcStartReset_of_done hn hr))⟩
  case noRequest => exact (step_svcNext hnext hs hp).trans (congrArg _ (svcNext_of_none hq))
  case request => exact (step_svcNext hnext hs hp).trans (congrArg _ (svcNext_of_request hq))
  case run =>
    have hstep := step_svcRun hnext hs hp
    exact ⟨fun hop => hstep.trans (congrArg _ (svcRun_of_write he hop)),
      fun hop hty => hstep.trans (congrArg _ (svcRun_of_byteRead he hop hty)),
      fun hop hty => hstep.trans (congrArg _ (svcRun_of_bitRead he hop hty))⟩
  case prog =>
    exact (step_attProg hnext hs hp).trans (congrArg _ (attProg_of_room (s := took rest s) hnp hnc hroom hpkt hr))
  case reset => exact (step_attReset hnext hs hp).trans (congrArg _ (attReset_of_room (s := took rest s) hnc hroom hr))

/-! ### The answers of an attempt (R270, R273 to R275) -/

/-- What a service request is answered with: `CV_ACK` with its byte, or `CV_NACK` (R274). -/
def answerWord (e : SvcReq) (result : Option Byte) : Word :=
  match result with
  | some x => eventWord 0x01#8 0 e.cvi x
  | none => eventWord 0x02#8 0 e.cvi 0

/-- A finished request leaves its queue and is answered (R274). -/
theorem finishRequest_eq {e first : SvcReq} {more : List SvcReq} {s : State} (hq : s.cvsvc = first :: more)
    (result : Option Byte) :
    finishRequest e result s =
      { s with
        cvsvc := more
        events := s.events ++ [answerWord e result]
        sched := { s.sched with req := none, alg := none, attPkt := none, phase := .svcNext } } := by
  have hdrop : s.cvsvc.drop 1 = more := by rw [hq]; rfl
  rw [← hdrop]
  cases result <;> rfl

/-- The state in which an attempt is answered: the ack bit is taken from `ACKBUF` and kept (R273). -/
def ackTaken (ack : Bool) (s : State) : State :=
  { s with ackbuf := none, sched := { s.sched with attAck := ack } }

/-- The ack bit of an attempt is what `ACKBUF` holds, and none once the timeout has passed (R273). -/
theorem attWait_of_ack {P : Params} {s : State} {e : SvcReq} {alg : SvcAlg} {ack : Bool} (he : s.sched.req = some e)
    (halg : s.sched.alg = some alg)
    (hack : s.ackbuf = some ack ∨ (s.ackbuf = none ∧ s.sched.waitDeadline ≤ s.now ∧ ack = false)) :
    attWait P s = (algorithmStep P e ack (ackTaken ack s) alg).getD (schedFault s) := by
  rcases hack with hack | ⟨hack, hdeadline, rfl⟩
  · simp only [attWait, he, halg, hack, ackTaken]
  · simp only [attWait, he, halg, hack, if_pos hdeadline, ackTaken]

section
variable {P : Params} {e : SvcReq} {ack : Bool} {s : State}

theorem algorithmStep_byte_ack :
    algorithmStep P e true s .byte = some (finishRequest e (some (BitVec.ofNat 8 s.sched.v)) s) :=
  rfl

theorem algorithmStep_byte_end (hv : 255 ≤ s.sched.v) : algorithmStep P e false s .byte = some (finishRequest e none s) :=
  if_pos hv

theorem algorithmStep_byte_next (hv : s.sched.v < 255) :
    algorithmStep P e false s .byte =
      some (startAttempt (svcVerifyByte e.cvi (BitVec.ofNat 8 (s.sched.v + 1)))
        { s with sched := { s.sched with v := s.sched.v + 1 } }) :=
  if_neg (Nat.not_le.mpr hv)

/-- The ack bit of a bit read is kept at the bit's place (R270). -/
def acksWith (ack : Bool) (s : State) : Byte :=
  s.sched.acks ||| ((BitVec.ofBool ack).setWidth 8 <<< s.sched.i)

theorem acksWith_eq : acksWith ack s = s.sched.acks ||| (if ack then 1#8 <<< s.sched.i else 0) := by
  cases ack
  · simp [acksWith]
  · rfl

theorem algorithmStep_bit_next (hi : s.sched.i < 7) :
    algorithmStep P e ack s .bit =
      some (startAttempt (svcVerifyBit e.cvi P.bitVerifyPol (s.sched.i + 1))
        { s with sched := { s.sched with acks := acksWith ack s, i := s.sched.i + 1 } }) := by
  simp only [algorithmStep, if_pos hi, acksWith_eq]

section
variable {acks b : Byte} (hi : s.sched.i = 7) (hacks : acks = acksWith ack s) (hb : b = bitResult P acks)
include hi hacks hb

/-- The byte of a bit read is answered at once in programming type 2 (R270, R275). -/
theorem algorithmStep_bit_answered (hty : s.act.programmingType = some 2) :
    algorithmStep P e ack s .bit =
      some (finishRequest e (some b) { s with sched := { s.sched with acks := acks, b := b } }) := by
  have hset : settingNat s.act .programmingType = some 2 := settingNat_programmingType hty
  subst hacks hb
  simp only [algorithmStep, hi, Nat.lt_irrefl, if_false, hset, if_true, acksWith_eq]

/-- The byte of a bit read is confirmed in programming type 3 (R270, R275). -/
theorem algorithmStep_bit_confirmed (hty : s.act.programmingType = some 3) :
    algorithmStep P e ack s .bit =
      some (startAttempt (svcVerifyByte e.cvi b)
        { s with sched := { s.sched with acks := acks, b := b, alg := some .confirm } }) := by
  have hset : settingNat s.act .programmingType = some 3 := settingNat_programmingType hty
  have hne : ¬3 = 2 := by decide
  subst hacks hb
  simp only [algorithmStep, hi, Nat.lt_irrefl, if_false, hset, if_neg hne, acksWith_eq]

end

end

/-- Settles O59: the step is the algorithm's for the ack bit that was taken, and each clause is one of its branches. -/
theorem serviceAnswers : Obligations.ServiceAnswers := by
  rintro s rest e more alg ack done hnext hs hp he hq halg hack rfl
  have hstep : ∀ {t}, algorithmStep Config.params e ack (ackTaken ack (took rest s)) alg = some t → step s = .next t := by
    intro t ht
    rw [step_attWait hnext hs hp, attWait_of_ack (s := took rest s) he halg hack, ht]
    rfl
  have hfinish : ∀ {u result t}, algorithmStep Config.params e ack (ackTaken ack (took rest s)) alg =
        some (finishRequest e result u) → u.cvsvc = e :: more →
      { u with
        cvsvc := more
        events := u.events ++ [answerWord e result]
        sched := { u.sched with req := none, alg := none, attPkt := none, phase := .svcNext } } = t →
      step s = .next t := by
    rintro u result _ h hu rfl
    exact (hstep h).trans (congrArg _ (finishRequest_eq hu _))
  refine ⟨?byteAck, ?byteEnd, ?byteNext, ?bitNext, fun b halg' hi hb => ?bitLast, ?confirm, ?write⟩
  case byteAck =>
    rintro rfl rfl
    exact hfinish algorithmStep_byte_ack hq rfl
  case byteEnd =>
    rintro rfl rfl hv
    exact hfinish (algorithmStep_byte_end (Nat.le_of_eq hv.symm)) hq rfl
  case byteNext =>
    rintro rfl rfl hv
    exact hstep (algorithmStep_byte_next hv)
  case bitNext =>
    rintro rfl hi
    exact hstep (algorithmStep_bit_next hi)
  case bitLast =>
    subst halg'
    have hacks : s.sched.acks ||| ((BitVec.ofBool ack).setWidth 8 <<< 7) = acksWith ack (ackTaken ack (took rest s)) := by
      simp only [acksWith, ackTaken, took_sched, hi]
    exact ⟨fun hty => ⟨_, hfinish (algorithmStep_bit_answered hi hacks hb hty) hq rfl, rfl⟩,
      fun hty => hstep (algorithmStep_bit_confirmed hi hacks hb hty)⟩
  case confirm =>
    rintro rfl
    exact hfinish rfl hq rfl
  case write =>
    rintro rfl
    exact hfinish rfl hq rfl

end Sys2Proof.Machine
end

section
/-! The transmission time of a packet (R310, R318, R319). -/

namespace Sys2Proof.Machine

/-! ### The durations of symbols -/

theorem symbolsDur_append (xs ys : List Symbol) : symbolsDur (xs ++ ys) = symbolsDur xs + symbolsDur ys := by
  simp [symbolsDur]

theorem symbolsDur_cons (x : Symbol) (xs : List Symbol) : symbolsDur (x :: xs) = symbolDur x + symbolsDur xs := by
  simp [symbolsDur]

theorem symbolsDur_singleton (x : Symbol) : symbolsDur [x] = symbolDur x := by
  simp [symbolsDur]

theorem symbolsDur_replicate (n : Nat) (x : Symbol) : symbolsDur (List.replicate n x) = n * symbolDur x := by
  simp [symbolsDur]

/-- Both halves of a DCC bit last as long (R146). -/
theorem symbolDur_bitSymbol {half : Nat} (h : half ≤ 255) : symbolDur (bitSymbol half) = 2 * half := by
  simp only [symbolDur, bitSymbol, BitVec.toNat_ofNat]
  omega

/-- The end bit without BiDi is a ONE (R310). -/
theorem symbolDur_endSymbol_one {t : DccTiming} (h1 : t.bit1 ≤ 255) (h : t.bidi = none) :
    symbolDur (endSymbol t) = 2 * t.bit1 := by
  rw [endSymbol, h]
  exact symbolDur_bitSymbol h1

/-- The end bit with BiDi has a shorter second half (R318). -/
theorem symbolDur_endSymbol_bidi {t : DccTiming} {b : Nat} (h : t.bidi = some b) (hb : b ≤ 255) :
    symbolDur (endSymbol t) = b + endHalf b t.offset := by
  have hhalf : endHalf b t.offset ≤ 255 := by
    unfold endHalf
    omega
  rw [endSymbol, h]
  simp only [symbolDur, BitVec.toNat_ofNat]
  omega

/-! ### The bits of the bytes -/

theorem popcount_le (b : Byte) : popcount b ≤ 8 :=
  List.length_filter_le _ _

/-- The bits of a byte, most significant first, are those of `popcount` backwards: each 1 bit lasts `x` and each 0 bit `y`. -/
theorem sum_bits_msbFirst (b : Byte) (x y : Nat) :
    ((List.range 8).map fun i => if b.getLsbD (7 - i) then x else y).sum = popcount b * x + (8 - popcount b) * y := by
  have hzeros : ((List.range 8).filter fun i => !b.getLsbD i).length = 8 - popcount b := by
    have := List.length_eq_length_filter_add (l := List.range 8) fun i => b.getLsbD i
    simp only [List.length_range] at this
    rw [popcount]
    omega
  have hback : (List.range 8).map (7 - ·) = (List.range 8).reverse := by decide
  calc ((List.range 8).map fun i => if b.getLsbD (7 - i) then x else y).sum
      = (((List.range 8).map (7 - ·)).map fun i => if b.getLsbD i then x else y).sum := by rw [List.map_map]; rfl
    _ = ((List.range 8).map fun i => if b.getLsbD i then x else y).sum := by rw [hback, List.map_reverse, List.sum_reverse]
    _ = popcount b * x + (8 - popcount b) * y := by
      simp [List.sum_map_ite, hzeros, popcount]

/-- A byte is a zero separator and its eight bits (R310). -/
theorem symbolsDur_byteSymbols {t : DccTiming} (h1 : t.bit1 ≤ 255) (h0 : t.bit0 ≤ 255) (b : Byte) :
    symbolsDur (byteSymbols t b) = popcount b * (2 * t.bit1) + (1 + (8 - popcount b)) * (2 * t.bit0) := by
  rw [byteSymbols, symbolsDur_cons, symbolDur_bitSymbol h0, symbolsDur, List.map_map, Nat.add_mul, Nat.one_mul,
    Nat.add_left_comm, ← sum_bits_msbFirst]
  refine congrArg (_ + List.sum ·) (List.map_congr_left fun i _ => ?_)
  rw [Function.comp_apply, apply_ite symbolDur, symbolDur_bitSymbol h1, symbolDur_bitSymbol h0]

theorem packetOnes_cons (b : Byte) (pkt : List Byte) : packetOnes (b :: pkt) = popcount b + packetOnes pkt := by
  simp [packetOnes]

theorem packetOnes_le (pkt : List Byte) : packetOnes pkt ≤ 8 * pkt.length := by
  induction pkt with
  | nil => exact Nat.le_refl _
  | cons b pkt ih =>
    have := popcount_le b
    rw [packetOnes_cons, List.length_cons]
    omega

/-- The bytes of a packet last as long as their 1 bits, their 0 bits and one zero separator each (R319). -/
theorem symbolsDur_flatMap_byteSymbols {t : DccTiming} (h1 : t.bit1 ≤ 255) (h0 : t.bit0 ≤ 255) (pkt : List Byte) :
    symbolsDur (pkt.flatMap (byteSymbols t)) =
      packetOnes pkt * (2 * t.bit1) + (pkt.length + (8 * pkt.length - packetOnes pkt)) * (2 * t.bit0) := by
  induction pkt with
  | nil => simp [symbolsDur, packetOnes]
  | cons b pkt ih =>
    have hb := popcount_le b
    have hpkt := packetOnes_le pkt
    have hzeros : pkt.length + 1 + (8 * (pkt.length + 1) - (popcount b + packetOnes pkt)) =
        1 + (8 - popcount b) + (pkt.length + (8 * pkt.length - packetOnes pkt)) := by omega
    rw [List.flatMap_cons, symbolsDur_append, symbolsDur_byteSymbols h1 h0, ih, packetOnes_cons, List.length_cons, hzeros]
    ring

/-- The symbols of a packet last for its transmission time (R310, R319). -/
theorem symbolsDur_dccSymbols {t : DccTiming} (h1 : t.bit1 ≤ 255) (h0 : t.bit0 ≤ 255) (hb : ∀ b, t.bidi = some b → b ≤ 255)
    (pkt : List Byte) : symbolsDur (dccSymbols t pkt) = dccDuration t pkt := by
  rw [dccSymbols, symbolsDur_append, symbolsDur_append, symbolsDur_replicate, symbolDur_bitSymbol h1,
    symbolsDur_flatMap_byteSymbols h1 h0, symbolsDur_singleton]
  cases hbidi : t.bidi with
  | none =>
    simp only [symbolDur_endSymbol_one h1 hbidi, dccDuration, hbidi]
    ring
  | some b =>
    simp only [symbolDur_endSymbol_bidi hbidi (hb b hbidi), dccDuration, hbidi]
    ring

/-- Settles O35: the closed form is the model's own, and the symbols last as long. -/
theorem durationIsSymbolSum : Obligations.DurationIsSymbolSum := by
  rintro t pkt _ _ h1 h0 hb rfl rfl
  exact ⟨rfl, symbolsDur_dccSymbols h1 h0 (fun b hbidi => (hb b hbidi).2) pkt⟩

end Sys2Proof.Machine
end

section
/-! The built packets (R300 to R307) against the packet rows (R131 to R141): their bytes, their lengths, and the loco they are
attributed to (R308). -/

namespace Sys2Proof.Machine

/-! ### Fields side by side in a byte -/

theorem cast_eq_setWidth {m w : Nat} (x : BitVec m) (h : m = w) : x.cast h = x.setWidth w := by
  subst h
  rw [BitVec.cast_eq, BitVec.setWidth_eq]

/-- Two fields side by side are the first shifted above the second. -/
theorem setWidth_append_eq_or {m n w : Nat} (x : BitVec m) (y : BitVec n) :
    (x ++ y).setWidth w = x.setWidth w <<< n ||| y.setWidth w := by
  apply BitVec.eq_of_getLsbD_eq
  intro i hi
  by_cases hn : i < n
  · simp [BitVec.getLsbD_append, hi, hn]
  · have hy : y.getLsbD i = false := BitVec.getLsbD_of_ge y i (by omega)
    simp [BitVec.getLsbD_append, hi, hn, hy]

/-! ### The address and the instruction bytes of a built packet (R300 to R305) -/

/-- The address bytes the builders write are those of the rows (R131, R300). -/
theorem addrPrefix_eq_addrBytes (a : Addr) : addrPrefix a = addrBytes a := by
  have hlow : a.setWidth 8 = a.extractLsb' 0 8 := BitVec.setWidth_eq_extractLsb' (by decide)
  have hhigh : (a >>> 8).setWidth 8 = (a.extractLsb' 8 6).setWidth 8 := by
    apply BitVec.eq_of_toNat_eq
    simp only [BitVec.toNat_setWidth, BitVec.toNat_ushiftRight, BitVec.extractLsb'_toNat, Nat.shiftRight_eq_div_pow]
    omega
  rw [addrPrefix, addrBytes, hlow, hhigh, cast_eq_setWidth, setWidth_append_eq_or]
  rfl

/-- The instruction bytes of a speed packet (R302). -/
def speedBytes (l : Loco) : List Byte :=
  let r : Byte := (BitVec.ofBool (l.rvvvvvvv.getLsbD 7)).setWidth 8
  let v := speedField l.rvvvvvvv
  match l.speedSteps.toNat with
  | 0 => [0x40#8 ||| (r <<< 5) ||| ((BitVec.ofBool (l.f31_0.getLsbD 0)).setWidth 8 <<< 4) ||| v.setWidth 8]
  | 2 =>
    let c : Byte := BitVec.ofNat 8 (speed28Code v)
    [0x40#8 ||| (r <<< 5) ||| ((c &&& 1#8) <<< 4) ||| (c >>> 1)]
  | _ => [0x3F#8, (r <<< 7) ||| v.setWidth 8]

theorem speedPacket_eq (a : Addr) (l : Loco) : speedPacket a l = sealPacket (addrPrefix a ++ speedBytes l) := by
  unfold speedPacket speedBytes
  generalize l.speedSteps.toNat = steps
  match steps with
  | 0 | 1 | 2 | _ + 3 => rfl

/-- The instruction bytes of a POM packet (R305). -/
def pomBytes (e : PomReq) : List Byte :=
  match e.op with
  | .read => cviBytes 0xE4#8 e.cvi ++ [0x00#8]
  | .write => cviBytes 0xEC#8 e.cvi ++ [e.data]

theorem pomPacket_eq (e : PomReq) : pomPacket e = sealPacket (addrPrefix e.addr ++ pomBytes e) := by
  unfold pomPacket pomBytes
  cases e.op <;> simp only [List.append_assoc]

/-! ### The instruction bytes of the rows (R134 to R141) -/

/-- The 14-step speed byte (R134). -/
theorem speedBytes_steps14 {l : Loco} (h : l.speedSteps = 0) (hv : (l.rvvvvvvv.extractLsb' 0 7).toNat ≤ 15) :
    speedBytes l =
      [(0b01#2 ++ BitVec.ofBool (l.rvvvvvvv.getLsbD 7) ++ BitVec.ofBool (l.f31_0.getLsbD 0) ++
        l.rvvvvvvv.extractLsb' 0 4).cast (by decide)] := by
  have hspeed : (l.rvvvvvvv.extractLsb' 0 4).setWidth 8 = (l.rvvvvvvv.extractLsb' 0 7).setWidth 8 := by
    apply BitVec.eq_of_toNat_eq
    simp only [BitVec.extractLsb'_toNat, BitVec.toNat_setWidth, Nat.shiftRight_zero] at hv ⊢
    omega
  simp only [speedBytes, h, speedField, BitVec.reduceToNat, cast_eq_setWidth, setWidth_append_eq_or,
    BitVec.shiftLeft_or_distrib, ← BitVec.shiftLeft_add, hspeed]
  rfl

/-- The lowest bit of a 28-step code and the bits above it (R135, R302). -/
theorem code28_bits (c : BitVec 5) :
    c.setWidth 8 &&& 1#8 = (c.extractLsb' 0 1).setWidth 8 ∧ c.setWidth 8 >>> 1 = (c.extractLsb' 1 4).setWidth 8 := by
  revert c
  decide

/-- The 28-step code has five bits for every speed of 28 steps (R302). -/
theorem ofNat_speed28Code {d : Byte} (hv : (d.extractLsb' 0 7).toNat ≤ 29) :
    BitVec.ofNat 8 (speed28Code (speedField d)) =
      (if d.extractLsb' 0 7 = 0 then 0 else if d.extractLsb' 0 7 = 1 then 2 else d.extractLsb' 0 5 + 2 : BitVec 5).setWidth 8 := by
  rw [speed28Code, speedField]
  split
  · rfl
  split
  · rfl
  apply BitVec.eq_of_toNat_eq
  simp only [BitVec.extractLsb'_toNat, BitVec.toNat_setWidth, BitVec.toNat_ofNat, BitVec.toNat_add, Nat.shiftRight_zero,
    show (2 : BitVec 5).toNat = 2 from rfl] at hv ⊢
  omega

/-- The 28-step speed byte (R135). -/
theorem speedBytes_steps28 {l : Loco} (h : l.speedSteps = 2) {c : BitVec 5}
    (hc : BitVec.ofNat 8 (speed28Code (speedField l.rvvvvvvv)) = c.setWidth 8) :
    speedBytes l =
      [(0b01#2 ++ BitVec.ofBool (l.rvvvvvvv.getLsbD 7) ++ c.extractLsb' 0 1 ++ c.extractLsb' 1 4).cast (by decide)] := by
  obtain ⟨hlow, hhigh⟩ := code28_bits c
  simp only [speedBytes, h, hc, hlow, hhigh, BitVec.reduceToNat, cast_eq_setWidth, setWidth_append_eq_or,
    BitVec.shiftLeft_or_distrib, ← BitVec.shiftLeft_add]
  rfl

/-- The 126-step speed bytes (R136). -/
theorem speedBytes_steps128 {l : Loco} (h : l.speedSteps = 4) :
    speedBytes l =
      [0x3F#8, (BitVec.ofBool (l.rvvvvvvv.getLsbD 7) ++ l.rvvvvvvv.extractLsb' 0 7).cast (by decide)] := by
  simp only [speedBytes, h, speedField, BitVec.reduceToNat, cast_eq_setWidth, setWidth_append_eq_or]

/-- Function group 1, F0 above F1 to F4 (R137). -/
theorem groupBytes_fg1 (f : BitVec 32) :
    groupBytes f .fg1 =
      [(0b100#3 ++ (f.extractLsb' 0 5).extractLsb' 0 1 ++ (f.extractLsb' 0 5).extractLsb' 1 4).cast (by decide)] := by
  have hlow : (f.extractLsb' 0 5).extractLsb' 0 1 = f.extractLsb' 0 1 :=
    BitVec.extractLsb'_extractLsb'_of_le (by decide)
  have hhigh : (f.extractLsb' 0 5).extractLsb' 1 4 = f.extractLsb' 1 4 :=
    BitVec.extractLsb'_extractLsb'_of_le (by decide)
  simp only [groupBytes, hlow, hhigh, cast_eq_setWidth, setWidth_append_eq_or,
    BitVec.shiftLeft_or_distrib, ← BitVec.shiftLeft_add]
  rfl

theorem groupBytes_fg2a (f : BitVec 32) : groupBytes f .fg2a = [(0b1011#4 ++ f.extractLsb' 5 4).cast (by decide)] := by
  simp only [groupBytes, cast_eq_setWidth, setWidth_append_eq_or]
  rfl

theorem groupBytes_fg2b (f : BitVec 32) : groupBytes f .fg2b = [(0b1010#4 ++ f.extractLsb' 9 4).cast (by decide)] := by
  simp only [groupBytes, cast_eq_setWidth, setWidth_append_eq_or]
  rfl

/-- The two bytes of a CV index, the first behind six instruction bits (R140, R141). -/
theorem cviBytes_eq (op : BitVec 6) (k : Cvi) :
    cviBytes (op.setWidth 8 <<< 2) k = [(op ++ k.extractLsb' 8 2).cast (by decide), k.extractLsb' 0 8] := by
  rw [cviBytes, cast_eq_setWidth, setWidth_append_eq_or]

theorem pomBytes_read {e : PomReq} (h : e.op = .read) :
    pomBytes e = [(0b111001#6 ++ e.cvi.extractLsb' 8 2).cast (by decide), e.cvi.extractLsb' 0 8, 0x00#8] := by
  rw [pomBytes, h]
  exact congrArg (· ++ [0x00#8]) (cviBytes_eq 0b111001#6 e.cvi)

theorem pomBytes_write {e : PomReq} (h : e.op = .write) :
    pomBytes e = [(0b111011#6 ++ e.cvi.extractLsb' 8 2).cast (by decide), e.cvi.extractLsb' 0 8, e.data] := by
  rw [pomBytes, h]
  exact congrArg (· ++ [e.data]) (cviBytes_eq 0b111011#6 e.cvi)

/-- The data byte of a service packet that verifies a bit (R141). -/
theorem verifyBit_data (v : Bool) (i : BitVec 3) :
    (0xE0#8 ||| ((BitVec.ofBool v).setWidth 8 <<< 3) ||| BitVec.ofNat 8 i.toNat : Byte) =
      (0b1110#4 ++ BitVec.ofBool v ++ i).cast (by decide) := by
  simp only [cast_eq_setWidth, setWidth_append_eq_or, BitVec.shiftLeft_or_distrib, ← BitVec.shiftLeft_add,
    BitVec.ofNat_toNat]
  rfl

/-! ### The sealed rows (R132, R301) -/

/-- Sealing the bytes of a row writes the row with its checksum. -/
theorem sealPacket_eq_row {i : Instr} {bs : List Byte} (hb : packetBody i = some bs) (hx : packetX i = xorAll bs) :
    sealPacket bs = packetBytes i := by
  rw [packetBytes, hb, hx]
  rfl

/-- Sealing an address and the instruction bytes of a row writes the row with its checksum. -/
theorem sealPacket_eq_addressedRow {i : Instr} {a : Addr} {bs tail : List Byte} (ht : bs = tail)
    (hb : packetBody i = some (addrBytes a ++ tail)) (hx : packetX i = xorAll (addrPrefix a ++ bs)) :
    sealPacket (addrPrefix a ++ bs) = packetBytes i := by
  subst ht
  rw [addrPrefix_eq_addrBytes] at hx ⊢
  exact sealPacket_eq_row hb hx

theorem xorAll_pomPacket (e : PomReq) : xorAll (pomPacket e) = 0 := by
  rw [pomPacket_eq, xorAll_sealPacket]

/-- The POM packet of a read request is its row (R140, R305). -/
theorem pomPacket_read {e : PomReq} (h : e.op = .read) : ∃ x, pomPacket e = packetBytes (.dccPomRead e.addr e.cvi x) := by
  rw [pomPacket_eq]
  exact ⟨_, sealPacket_eq_addressedRow (pomBytes_read h) rfl rfl⟩

/-- The POM packet of a write request is its row (R140, R305). -/
theorem pomPacket_write {e : PomReq} (h : e.op = .write) :
    ∃ x, pomPacket e = packetBytes (.dccPomWrite e.addr e.cvi e.data x) := by
  rw [pomPacket_eq]
  exact ⟨_, sealPacket_eq_addressedRow (pomBytes_write h) rfl rfl⟩

/-- A service packet is its row, from the first six bits of the row and the data byte (R141, R306). -/
theorem svcPacket_row {i : Instr} {op : BitVec 6} {k : Cvi} {d : Byte}
    (hb : packetBody i = some [(op ++ k.extractLsb' 8 2).cast (by decide), k.extractLsb' 0 8, d])
    (hx : packetX i = xorAll (cviBytes (op.setWidth 8 <<< 2) k ++ [d])) :
    sealPacket (cviBytes (op.setWidth 8 <<< 2) k ++ [d]) = packetBytes i := by
  rw [cviBytes_eq] at hx ⊢
  exact sealPacket_eq_row hb hx

theorem svcVerifyByte_row (k : Cvi) (d : Byte) : ∃ x, svcVerifyByte k d = packetBytes (.dccSvcVerifyByte k d x) :=
  ⟨_, svcPacket_row (op := 0b011101#6) rfl rfl⟩

theorem svcWriteByte_row (k : Cvi) (d : Byte) : ∃ x, svcWriteByte k d = packetBytes (.dccSvcWriteByte k d x) :=
  ⟨_, svcPacket_row (op := 0b011111#6) rfl rfl⟩

theorem svcVerifyBit_row (k : Cvi) (v : Bool) (i : BitVec 3) :
    ∃ x, svcVerifyBit k v i.toNat = packetBytes (.dccSvcVerifyBit k v i x) := by
  rw [svcVerifyBit, verifyBit_data]
  exact ⟨_, svcPacket_row (op := 0b011110#6) rfl rfl⟩

/-- Settles O36: the address bytes and the instruction bytes of each builder are those of its row, and sealing adds the row's
checksum. -/
theorem buildersAreRows : Obligations.BuildersAreRows := by
  refine ⟨fun a l _ => ?speed, fun a l _ => ?groups, fun e _ => ⟨xorAll_pomPacket e, pomPacket_read, pomPacket_write⟩,
    fun k d v i => ?service⟩
  case speed =>
    rw [speedPacket_eq]
    exact ⟨xorAll (addrPrefix a ++ speedBytes l),
      fun h hv => sealPacket_eq_addressedRow (speedBytes_steps14 h hv) rfl rfl,
      fun h hv => sealPacket_eq_addressedRow (speedBytes_steps28 h (ofNat_speed28Code hv)) rfl rfl,
      fun h => sealPacket_eq_addressedRow (speedBytes_steps128 h) rfl rfl, xorAll_sealPacket _⟩
  case groups =>
    exact ⟨fun g => xorAll_sealPacket _, ⟨_, sealPacket_eq_addressedRow (groupBytes_fg1 _) rfl rfl⟩,
      ⟨_, sealPacket_eq_addressedRow (groupBytes_fg2a _) rfl rfl⟩, ⟨_, sealPacket_eq_addressedRow (groupBytes_fg2b _) rfl rfl⟩,
      ⟨_, sealPacket_eq_addressedRow rfl rfl rfl⟩, ⟨_, sealPacket_eq_addressedRow rfl rfl rfl⟩,
      ⟨_, sealPacket_eq_addressedRow rfl rfl rfl⟩⟩
  case service =>
    obtain ⟨xv, hv⟩ := svcVerifyByte_row k d
    obtain ⟨xw, hw⟩ := svcWriteByte_row k d
    obtain ⟨xb, hb⟩ := svcVerifyBit_row k v i
    exact ⟨⟨xv, hv, xorAll_sealPacket _⟩, ⟨xw, hw, xorAll_sealPacket _⟩, ⟨xb, hb, xorAll_sealPacket _⟩,
      rfl, rfl, rfl, rfl⟩

/-! ### Lengths (R307) -/

theorem length_sealPacket_addrPrefix (a : Addr) (bs : List Byte) :
    (sealPacket (addrPrefix a ++ bs)).length = if a.toNat ≤ 127 then 2 + bs.length else 3 + bs.length := by
  rw [length_sealPacket, List.length_append, length_addrPrefix]
  split <;> omega

/-- One speed byte with 14 and 28 steps (R302). -/
theorem length_speedBytes_short {l : Loco} (h : l.speedSteps = 0 ∨ l.speedSteps = 2) : (speedBytes l).length = 1 := by
  rcases h with h | h <;> rw [speedBytes, h] <;> rfl

/-- Two speed bytes with 128 steps (R302). -/
theorem length_speedBytes_long {l : Loco} (h : l.speedSteps = 4) : (speedBytes l).length = 2 := by
  rw [speedBytes, h]
  rfl

theorem length_pomBytes (e : PomReq) : (pomBytes e).length = 3 := by
  unfold pomBytes
  cases e.op <;> rfl

/-- Settles O37: the address takes one or two bytes, the instruction one to three, the checksum one. -/
theorem builtPacketLengths : Obligations.BuiltPacketLengths := by
  refine ⟨fun a l _ _ => ⟨fun h => ?short, fun h => ?long, fun g hg => ?lowGroups, fun g hg => ?highGroups,
      packetOk_speedPacket a l, packetOk_fgPacket a l⟩,
    fun e _ _ => ⟨?pom, packetOk_pomPacket e⟩,
    fun k d v i => ⟨rfl, rfl, rfl, packetOk_svcVerifyByte k d, packetOk_svcWriteByte k d, packetOk_svcVerifyBit k v i⟩,
    rfl, rfl, packetOk_idlePacket, packetOk_resetPacket⟩
  case short => rw [speedPacket_eq, length_sealPacket_addrPrefix, length_speedBytes_short h]
  case long => rw [speedPacket_eq, length_sealPacket_addrPrefix, length_speedBytes_long h]
  case lowGroups => rcases hg with rfl | rfl | rfl <;> exact length_sealPacket_addrPrefix _ _
  case highGroups => rcases hg with rfl | rfl | rfl <;> exact length_sealPacket_addrPrefix _ _
  case pom => rw [pomPacket_eq, length_sealPacket_addrPrefix, length_pomBytes]

/-! ### The loco of a packet (R308) -/

/-- A packet is attributed to the address it starts with, where that is no broadcast (R131, R308). -/
theorem dccAddress_of_splitAddress {bs rest : List Byte} {a : Addr} (h : splitAddress bs = some (a, rest)) (h0 : a ≠ 0) :
    dccAddress bs = some a := by
  cases bs with
  | nil => cases h
  | cons b0 bs =>
    have hb0 : b0 ≠ 0 := by
      rintro rfl
      cases h
      exact h0 rfl
    rw [dccAddress, if_neg hb0]
    unfold splitAddress at h
    dsimp only at h
    by_cases hshort : b0.toNat ≤ 127
    · rw [if_pos hshort] at h ⊢
      cases h
      rfl
    rw [if_neg hshort] at h ⊢
    by_cases hlong : 0xC0 ≤ b0.toNat ∧ b0.toNat ≤ 0xE7
    · rw [if_pos hlong] at h ⊢
      cases bs with
      | nil => cases h
      | cons b1 bs =>
        obtain ⟨-, hab⟩ := Option.ite_none_right_eq_some.mp h
        cases hab
        rfl
    · rw [if_neg hlong] at h
      cases h

/-- A packet that begins with the address bytes of a loco is attributed to that loco (R300, R308). -/
theorem dccAddress_addressed {a : Addr} (h1 : 1 ≤ a.toNat) (h : a.toNat ≤ 10239) (bs : List Byte) :
    dccAddress (sealPacket (addrPrefix a ++ bs)) = some a := by
  have hsplit := splitAddress_addrBytes a (bs ++ [xorAll (addrBytes a ++ bs)]) (by simpa [packetAddrOk] using h)
  rw [addrPrefix_eq_addrBytes, sealPacket, List.append_assoc]
  refine dccAddress_of_splitAddress hsplit ?_
  rintro rfl
  exact absurd h1 (by decide)

/-- Settles O38: every packet of a loco begins with its address bytes, and the first byte of the fillers is no address. -/
theorem builtPacketsNameTheirLoco : Obligations.BuiltPacketsNameTheirLoco := by
  refine ⟨fun a l g h1 h => ⟨?_, dccAddress_addressed h1 h _⟩, fun e h1 h => ?_, rfl, rfl⟩
  · rw [speedPacket_eq]
    exact dccAddress_addressed h1 h _
  · rw [pomPacket_eq]
    exact dccAddress_addressed h1 h _

end Sys2Proof.Machine
end

section
/-! What the packet decoder reads is written back as the bytes it was read from (R130 to R141, R143): the sender of a packet row sends
the bytes that were selected. -/

namespace Sys2Proof

/-! ### Bytes put together from their fields -/

/-- A single bit is a field of width 1. -/
theorem ofBool_getLsbD_eq_extractLsb' {w n : Nat} (b : BitVec w) : BitVec.ofBool (b.getLsbD n) = b.extractLsb' n 1 := by
  apply BitVec.eq_of_getLsbD_eq
  intro i hi
  obtain rfl : i = 0 := by omega
  simp

/-- A bit below a field lengthens it. -/
theorem extractLsb'_append_getLsbD {w n m : Nat} (b : BitVec w) :
    b.extractLsb' (m + 1) n ++ BitVec.ofBool (b.getLsbD m) = b.extractLsb' m (n + 1) := by
  rw [ofBool_getLsbD_eq_extractLsb', BitVec.extractLsb'_append_extractLsb'_eq_extractLsb' rfl]

/-- The five bits of a code whose lowest stands above the others are written back in their order (R135, R137). -/
theorem codeByte_of_code (b : Byte) :
    let c : BitVec 5 := (b.extractLsb' 0 4 ++ b.extractLsb' 4 1).cast (by decide)
    ((b.extractLsb' 5 3 ++ c.extractLsb' 0 1 ++ c.extractLsb' 1 4).cast (by decide) : Byte) = b := by
  dsimp only
  rw [BitVec.extractLsb'_cast, BitVec.extractLsb'_append_eq_right, BitVec.extractLsb'_cast, BitVec.extractLsb'_append_eq_left,
    BitVec.extractLsb'_append_extractLsb'_eq_extractLsb' (show 5 = 4 + 1 from rfl), cast_extractLsb'_append]

/-- The two bytes of a CV index are written back below the first byte's operation (R140, R141). -/
theorem cviBytes_of_cvi (b k : Byte) :
    let cvi : Cvi := (b.extractLsb' 0 2 ++ k).cast (by decide)
    ((b.extractLsb' 2 6 ++ cvi.extractLsb' 8 2).cast (by decide) : Byte) = b ∧ cvi.extractLsb' 0 8 = k := by
  dsimp only
  rw [BitVec.extractLsb'_cast, BitVec.extractLsb'_append_eq_left, BitVec.extractLsb'_cast, BitVec.extractLsb'_append_eq_right,
    cast_extractLsb'_append]
  exact ⟨rfl, rfl⟩

/-- A byte whose upper bits are 0 is its low bits widened. -/
theorem setWidth_extractLsb'_low {n m : Nat} {b : BitVec (n + m)} (h : b.extractLsb' n m = 0) :
    (b.extractLsb' 0 n).setWidth (n + m) = b := by
  apply BitVec.eq_of_getLsbD_eq
  intro i hi
  by_cases hn : i < n
  · simp [hn, hi]
  · have hbit := congrArg (BitVec.getLsbD · (i - n)) h
    simp only [BitVec.getLsbD_extractLsb', show n + (i - n) = i by omega, show i - n < m by omega] at hbit
    simpa [hn, hi] using hbit.symm

/-! ### The address (R131) -/

/-- The bytes of an address that was read are those it is written with. -/
theorem addrBytes_append_of_splitAddress {bs rest : List Byte} {a : Addr} (h : splitAddress bs = some (a, rest)) :
    bs = addrBytes a ++ rest := by
  unfold splitAddress at h
  split at h
  next => cases h
  next b0 bs =>
    split at h
    next hshort =>
      cases h
      have hlow : (b0.setWidth 14).toNat = b0.toNat := by
        rw [BitVec.toNat_setWidth, Nat.mod_eq_of_lt (by omega)]
      rw [addrBytes, if_pos (hlow ▸ hshort), extractLsb'_setWidth_low b0 (by decide)]
      rfl
    next =>
      obtain ⟨⟨hge, hle⟩, h⟩ := Option.ite_none_right_eq_some.mp h
      split at h
      next => cases h
      next b1 bs =>
        obtain ⟨hlong, hab⟩ := Option.ite_none_right_eq_some.mp h
        cases hab
        have htop : b0.extractLsb' 6 2 = 0b11#2 := by
          apply BitVec.eq_of_toNat_eq
          rw [BitVec.extractLsb'_toNat, Nat.shiftRight_eq_div_pow]
          simp only [BitVec.toNat_ofNat]
          omega
        rw [addrBytes, if_neg (by omega), BitVec.extractLsb'_cast, BitVec.extractLsb'_append_eq_left, BitVec.extractLsb'_cast,
          BitVec.extractLsb'_append_eq_right, ← htop, cast_extractLsb'_append]
        rfl

/-! ### The instruction bytes (R134 to R141) -/

/-- The packet row `i` has the bytes `body` before its checksum byte `x`. -/
def IsRow (i : Instr) (body : List Byte) (x : Byte) : Prop :=
  packetBody i = some body ∧ packetX i = x

theorem isRow_of_decodeOneByte {steps14 : Bool} {a : Addr} {b x : Byte} {i : Instr}
    (h : decodeOneByte steps14 a b x = some i) : IsRow i (addrBytes a ++ [b]) x := by
  unfold decodeOneByte at h
  split at h
  next hop =>
    split at h <;> cases h <;> refine ⟨?_, rfl⟩
    next =>
      rw [packetBody, ← hop, extractLsb'_append_getLsbD, extractLsb'_append_getLsbD, cast_extractLsb'_append]
    next =>
      rw [packetBody, ← hop, extractLsb'_append_getLsbD, codeByte_of_code]
  next =>
    split at h
    next hop =>
      cases h
      refine ⟨?_, rfl⟩
      rw [packetBody, ← hop, codeByte_of_code]
    next =>
      split at h
      next hop =>
        cases h
        exact ⟨by rw [packetBody, ← hop, cast_extractLsb'_append], rfl⟩
      next =>
        obtain ⟨hop, hi⟩ := Option.ite_none_right_eq_some.mp h
        cases hi
        exact ⟨by rw [packetBody, ← hop, cast_extractLsb'_append], rfl⟩

theorem isRow_of_decodeTwoBytes {a : Addr} {b d x : Byte} {i : Instr} (h : decodeTwoBytes a b d x = some i) :
    IsRow i (addrBytes a ++ [b, d]) x := by
  unfold decodeTwoBytes at h
  split at h
  next hb =>
    cases h
    refine ⟨?_, rfl⟩
    rw [packetBody, hb, ofBool_getLsbD_eq_extractLsb', cast_extractLsb'_append]
  next =>
    split at h
    next hb => cases h; subst hb; exact ⟨rfl, rfl⟩
    next =>
      split at h
      next hb => cases h; subst hb; exact ⟨rfl, rfl⟩
      next =>
        obtain ⟨⟨hb, hz⟩, hi⟩ := Option.ite_none_right_eq_some.mp h
        cases hi
        subst hb
        exact ⟨by rw [packetBody, setWidth_extractLsb'_low (n := 3) (m := 5) hz], rfl⟩

theorem isRow_of_decodeThreeBytes {a : Addr} {b k d x : Byte} {i : Instr} (h : decodeThreeBytes a b k d x = some i) :
    IsRow i (addrBytes a ++ [b, k, d]) x := by
  obtain ⟨hb, hk⟩ := cviBytes_of_cvi b k
  unfold decodeThreeBytes at h
  dsimp only at h
  split at h
  next hop =>
    obtain ⟨hop, rfl⟩ := hop
    cases h
    refine ⟨?_, rfl⟩
    rw [packetBody, ← hop, hb, hk]
    rfl
  next =>
    obtain ⟨hop, hi⟩ := Option.ite_none_right_eq_some.mp h
    cases hi
    refine ⟨?_, rfl⟩
    rw [packetBody, ← hop, hb, hk]

theorem isRow_of_decodeService {b k d x : Byte} {i : Instr} (h : decodeService b k d x = some i) : IsRow i [b, k, d] x := by
  obtain ⟨hb, hk⟩ := cviBytes_of_cvi b k
  unfold decodeService at h
  dsimp only at h
  split at h
  next hop =>
    cases h
    refine ⟨?_, rfl⟩
    rw [packetBody, ← hop, hb, hk]
  next =>
    split at h
    next hop =>
      cases h
      refine ⟨?_, rfl⟩
      rw [packetBody, ← hop, hb, hk]
    next =>
      obtain ⟨⟨hop, hd⟩, hi⟩ := Option.ite_none_right_eq_some.mp h
      cases hi
      refine ⟨?_, rfl⟩
      rw [packetBody, ← hop, hb, hk, ← hd, extractLsb'_append_getLsbD, cast_extractLsb'_append]

/-! ### Whole packets (R130, R143) -/

theorem packetBytes_of_isRow {i : Instr} {body : List Byte} {x : Byte} (h : IsRow i body x) : packetBytes i = body ++ [x] := by
  obtain ⟨hbody, hx⟩ := h
  rw [packetBytes, hbody, hx]

/-- A packet with an address is read as a row of its bytes. -/
theorem isRow_of_decodeAddressed {steps14 : Bool} {bs : List Byte} {i : Instr} (h : decodeAddressed steps14 bs = some i) :
    ∃ body x, bs = body ++ [x] ∧ IsRow i body x := by
  unfold decodeAddressed at h
  split at h
  next a b x hs => exact ⟨_, x, by simp [addrBytes_append_of_splitAddress hs], isRow_of_decodeOneByte h⟩
  next a b d x hs => exact ⟨_, x, by simp [addrBytes_append_of_splitAddress hs], isRow_of_decodeTwoBytes h⟩
  next a b k d x hs => exact ⟨_, x, by simp [addrBytes_append_of_splitAddress hs], isRow_of_decodeThreeBytes h⟩
  next => cases h

/-- In whatever context a packet is read, it is read as a row of its bytes, its checksum byte the last one. -/
theorem isRow_of_decodePacket {ctx : PacketCtx} {bs : List Byte} {i : Instr} (h : decodePacket ctx bs = .ok i) :
    ∃ body x, bs = body ++ [x] ∧ IsRow i body x := by
  unfold decodePacket at h
  split at h
  next hbs => cases h; exact ⟨[0xFF#8, 0x00#8], 0xFF#8, hbs, rfl, rfl⟩
  next =>
    split at h
    next hbs => cases h; exact ⟨[0x00#8, 0x00#8], 0x00#8, hbs, rfl, rfl⟩
    next =>
      dsimp only at h
      split at h
      next j hservice =>
        cases h
        split at hservice
        next b k d x _ _ =>
          split at hservice
          next => exact ⟨[b, k, d], x, rfl, isRow_of_decodeService hservice⟩
          next => cases hservice
        next => cases hservice
      next =>
        split at h
        next j haddressed =>
          cases h
          exact isRow_of_decodeAddressed haddressed
        next => cases h

/-- A packet that is read as a row is that row's bytes. -/
theorem packetBytes_of_decodePacket {ctx : PacketCtx} {bs : List Byte} {i : Instr} (h : decodePacket ctx bs = .ok i) :
    packetBytes i = bs := by
  obtain ⟨body, x, hbs, hrow⟩ := isRow_of_decodePacket h
  rw [packetBytes_of_isRow hrow, hbs]

/-- A packet is read as a packet row, never as another instruction. -/
theorem isPacketRow_of_decodePacket {ctx : PacketCtx} {bs : List Byte} {i : Instr} (h : decodePacket ctx bs = .ok i) :
    Machine.isPacketRow i = true := by
  obtain ⟨body, x, -, hbody, -⟩ := isRow_of_decodePacket h
  cases i with
  | dccIdle | dccReset | dccSpeed14 | dccSpeed28 | dccSpeed128 | dccFg1 | dccFg2a | dccFg2b | dccFg3 | dccFg4 | dccFg5
  | dccPomRead | dccPomWrite | dccSvcVerifyByte | dccSvcWriteByte | dccSvcVerifyBit => rfl
  | _ => cases hbody

end Sys2Proof
end

section
/-! DCCDRV's selection of a packet and its transmission (R88, R143, R354): every step of `D_SELECT` sends the selected bytes, by the row
they decode to or as they stand. -/

namespace Sys2Proof.Machine

/-! ### Transmission (R354 (b), (c)) -/

/-- In `D_SELECT` with its timing latched, a transmission writes the track, `tx_end` and the phase alone. -/
theorem transmitPacket_of_selecting {P : Params} {s : State} {m : Mode} {t : DccTiming} (hp : s.dcc.phase = .dSelect)
    (hm : s.dcc.mode = some m) (ht : dccTiming P m s.dcc.bidiOn s.act = some t) (bytes : List Byte) :
    transmitPacket P bytes s =
      { s with
        track := s.track ++ (dccSymbols t bytes).map fun x => (m, x)
        dcc := { s.dcc with txEnd := s.now + dccDuration t bytes, phase := .dTx } } := by
  simp only [transmitPacket, hp, hm, ht]
  rfl

/-- Settles O34: a packet row is a transmission of its bytes, which `D_SELECT` starts. -/
theorem packetRowsAreSent : Obligations.PacketRowsAreSent := by
  intro i s m t hi hp hm ht
  rw [exec_packetRow hi, transmitPacket_of_selecting hp hm ht]

/-! ### Selection (R354 (a)) -/

/-- The head of `FRONTQ`, else the head of `BACKQ`, else the filler of the mode is selected (R88, R304, R354 (a)). -/
theorem selectPacket_fst {m : Mode} {s : State} {e : Packet}
    (h : s.frontq.head? = some e ∨ (s.frontq = [] ∧ s.backq.head? = some e) ∨
      (s.frontq = [] ∧ s.backq = [] ∧ m = .dccService ∧ e = { bytes := [0x00, 0x00, 0x00] }) ∨
      (s.frontq = [] ∧ s.backq = [] ∧ m ≠ .dccService ∧ e = { bytes := [0xFF, 0x00, 0xFF] })) :
    (selectPacket m s).1 = e := by
  rcases h with h | ⟨hf, h⟩ | ⟨hf, hb, hm, rfl⟩ | ⟨hf, hb, hm, rfl⟩
  · obtain ⟨more, hf⟩ := List.head?_eq_some_iff.mp h
    simp only [selectPacket, hf]
  · obtain ⟨more, hb⟩ := List.head?_eq_some_iff.mp h
    simp only [selectPacket, hf, hb]
  · simp only [selectPacket, hf, hb, fillerPacket, if_pos hm]
    rfl
  · simp only [selectPacket, hf, hb, fillerPacket, if_neg hm]
    rfl

/-- The selection takes a packet off its queue and changes nothing else (R88, R354 (a)). -/
theorem selectPacket_snd (m : Mode) (s : State) :
    (selectPacket m s).2 =
      { s with frontq := s.frontq.drop 1, backq := if s.frontq = [] then s.backq.drop 1 else s.backq } := by
  rcases selectPacket_cases m s with ⟨e, more, hf, hsel⟩ | ⟨e, more, hf, hb, hsel⟩ | ⟨hf, hb, hsel⟩ <;> rw [hsel]
  · simp [hf]
  · simp [hf, hb]
  · have hfront : s.frontq.drop 1 = s.frontq := by simp [hf]
    have hback : (if s.frontq = [] then s.backq.drop 1 else s.backq) = s.backq := by simp [hb]
    rw [hfront, hback]

/-- The state in which the selected packet is executed: it is `cur` and off its queue. -/
def selected (m : Mode) (s : State) : State :=
  { (selectPacket m s).2 with dcc := { s.dcc with cur := some (selectPacket m s).1 } }

theorem selected_eq (m : Mode) (s : State) :
    selected m s =
      { s with
        frontq := s.frontq.drop 1
        backq := if s.frontq = [] then s.backq.drop 1 else s.backq
        dcc := { s.dcc with cur := some (selectPacket m s).1 } } := by
  rw [selected, selectPacket_snd]

/-- A selected packet that is a row of the table is executed as that row. -/
theorem dccSelect_of_row {P : Params} {m : Mode} {s : State} {t : DccTiming} {i : Instr}
    (ht : dccTiming P m s.dcc.bidiOn s.act = some t)
    (hi : decode (.packet (packetContext m (selectPacket m s).1.bytes s) (selectPacket m s).1.bytes) = .ok i) :
    dccSelect P m s = .run [i] (selected m s) := by
  simp only [dccSelect, ht, hi, selected, selectPacket_snd]

/-- A selected packet that is no row is sent as it stands (R143). -/
theorem dccSelect_of_noRow {P : Params} {m : Mode} {s : State} {t : DccTiming} {r : Reject}
    (ht : dccTiming P m s.dcc.bidiOn s.act = some t)
    (hr : decode (.packet (packetContext m (selectPacket m s).1.bytes s) (selectPacket m s).1.bytes) = .error r) :
    dccSelect P m s = .run [] (transmitPacket P (selectPacket m s).1.bytes (selected m s)) := by
  simp only [dccSelect, ht, hr, selected, selectPacket_snd]

/-! ### DCCDRV's move -/

/-- Outside `D_TX`, DCCDRV's move is the step of its phase (R510, R511). -/
theorem dccMove_eq_dccStep {P : Params} {ok : Bool} {s : State} (hp : s.dcc.phase ≠ .dTx) :
    dccMove P ok s = dccStep P ok s := by
  simp [dccMove, dccTxDue, hp]

section
variable {s : State} {rest : List Move} {ok : Bool} {m : Mode} {t : DccTiming} {i : Instr}
variable (hnext : NextIs s (.dccdrv ok) rest) (hp : s.dcc.phase = .dSelect) (hm : s.dcc.mode = some m)
variable (ht : dccTiming Config.params m s.dcc.bidiOn s.act = some t)

include hp hm in
theorem moveStep_dSelect :
    moveStep Config.params (.dccdrv ok) (took rest s) = dccSelect Config.params m (took rest s) := by
  have hmove : dccMove Config.params ok (took rest s) = dccStep Config.params ok (took rest s) :=
    dccMove_eq_dccStep (by simp [hp])
  rw [moveStep, hmove]
  simp only [dccStep, took_dcc, hp, hm]

include hnext hp hm ht

/-- `D_SELECT` runs the row that the selected packet is (R354, log 5). -/
theorem step_dSelect_of_row
    (hi : decode (.packet (packetContext m (selectPacket m (took rest s)).1.bytes (took rest s))
      (selectPacket m (took rest s)).1.bytes) = .ok i) :
    step s = exec i (selected m (took rest s)) :=
  step_of_moveStep_singleton hnext ((moveStep_dSelect hp hm).trans (dccSelect_of_row (s := took rest s) ht hi))

/-- Whether the selected packet is a row or not, its bytes are transmitted (R143, R354). -/
theorem step_dSelect :
    step s =
      .next (transmitPacket Config.params (selectPacket m (took rest s)).1.bytes (selected m (took rest s))) := by
  cases hd : decode (.packet (packetContext m (selectPacket m (took rest s)).1.bytes (took rest s))
      (selectPacket m (took rest s)).1.bytes) with
  | ok i =>
    rw [step_dSelect_of_row hnext hp hm ht hd, exec_packetRow (isPacketRow_of_decodePacket hd),
      packetBytes_of_decodePacket hd]
  | error r =>
    exact step_of_moveStep hnext ((moveStep_dSelect hp hm).trans (dccSelect_of_noRow (s := took rest s) ht hd))

end

/-- Settles O39: the selected packet is transmitted, by its row or as it stands, from the state without it. -/
theorem selectedPacketIsSentVerbatim : Obligations.SelectedPacketIsSentVerbatim := by
  intro s rest ok m t e hnext hp hm ht he
  have hsel : (selectPacket m (took rest s)).1 = e := selectPacket_fst (s := took rest s) he
  rw [step_dSelect hnext hp hm ht, selected_eq, hsel]
  refine congrArg Host.Outcome.next (transmitPacket_of_selecting ?_ ?_ ?_ e.bytes)
  · exact hp
  · exact hm
  · exact ht

/-! ### Datagrams and placed words -/

/-- SCHED's step with a feedback entry runs its datagrams in order (R261 (a), R383). -/
theorem step_opsBidi_runs {s : State} {rest : List Move} {f : Feedback} {more : List Feedback} (hnext : NextIs s .sched rest)
    (hp : s.sched.phase = .opsBidi) (hs : s.arbState = modeValue .dccOperations) (hf : s.feedbackq = f :: more) :
    step s = runInstrs (feedbackInstrs Config.params f) { took rest s with feedbackq := more, rxPkt := f.pkt } := by
  have hguard : schedGuard (took rest s) = true :=
    (schedGuard_of_operations (s := took rest s) (by simp [operationsPhases, hp])).trans (beq_iff_eq.mpr hs)
  have hmove : moveStep Config.params .sched (took rest s) =
      .run (feedbackInstrs Config.params f) { took rest s with feedbackq := more, rxPkt := f.pkt } := by
    simp only [moveStep, schedStep, hguard, if_true, schedAct, took_sched, hp, opsBidi, took_feedbackq, hf]
  rw [step_nextIs hnext, hmove]

/-- A placed output word is run as its row (log 6). -/
theorem step_of_outLatch {s : State} {c : Code} {i : Instr} (hf : s.fatal = none) (hc : s.outLatch = some c)
    (hi : decode c = .ok i) : step s = exec i { s with outLatch := none } := by
  simp only [step, hf, advance, hc, hi, runInstrs_singleton]

/-- Settles O8: DCCDRV's selection, SCHED's feedback entry, and a placed word. -/
theorem stepRunsPacketsAndDatagrams : Obligations.StepRunsPacketsAndDatagrams :=
  ⟨fun _ _ _ _ _ _ hnext hp hm ht hi => step_dSelect_of_row hnext hp hm ht hi,
    fun _ _ _ _ hnext hp hs hf => step_opsBidi_runs hnext hp hs hf,
    fun _ _ _ hf hc hi => step_of_outLatch hf hc hi⟩

end Sys2Proof.Machine
end

section
/-! Channel 2 is parsed into its datagrams (R150, R380 to R384), and what the two datagrams do (R385, R386). -/

namespace Sys2Proof.Machine

/-! ### The bytes of channel 2 (R150, R381) -/

theorem parityOk_iff {bs : List Byte} : parityOk bs = true ↔ bytesValid bs := by
  simp [parityOk, bytesValid]

/-- Every data byte of R150 has four 1 bits (R381). -/
theorem bytesValid_bidiDataBytes : bytesValid bidiDataBytes :=
  parityOk_iff.mp rfl

/-- The special bytes of R150: the two `ACK`s, then `NACK`, `BUSY` and the two reserved bytes. -/
def specialBytes : List Byte :=
  [0x0F#8, 0xF0#8, 0x3C#8, 0xE1#8, 0x87#8, 0xC3#8]

theorem bytesValid_specialBytes : bytesValid specialBytes :=
  parityOk_iff.mp rfl

theorem not_mem_bidiDataBytes {b : Byte} (h : b ∈ specialBytes) : b ∉ bidiDataBytes := by
  have hall : ∀ c ∈ specialBytes, c ∉ bidiDataBytes := by decide
  exact hall b h

/-- No table gives a special byte another meaning than R150 does. -/
theorem bidiDecode_of_mem_specialBytes {P : Params} (hP : P.Legal) {b : Byte} (h : b ∈ specialBytes) :
    P.bidiDecode b = bidiDefaultDecode b :=
  hP.bidiSpecial b (not_mem_bidiDataBytes h)

section
variable {P : Params} {enc : BitVec 6 → Byte}

/-- The byte that carries a data value in a legal table is a data byte of R150. -/
theorem enc_mem_bidiDataBytes (hP : P.Legal) (henc : ∀ n, P.bidiDecode (enc n) = .data n) (n : BitVec 6) :
    enc n ∈ bidiDataBytes := by
  obtain ⟨b, hb, -, hunique⟩ := hP.bidiData n
  rwa [hunique (enc n) (henc n)]

theorem popcount_enc (hP : P.Legal) (henc : ∀ n, P.bidiDecode (enc n) = .data n) (n : BitVec 6) : popcount (enc n) = 4 :=
  bytesValid_bidiDataBytes _ (enc_mem_bidiDataBytes hP henc n)

/-- A byte 0x00 fails the parity check, so channel 2 without data is channel 2 without a byte (R380, R381). -/
theorem eq_nil_of_noData {bs : List Byte} (hno : noData bs = true) (hvalid : bytesValid bs) : bs = [] := by
  cases bs with
  | nil => rfl
  | cons b tail =>
    obtain ⟨rfl, -⟩ : b = 0 ∧ ∀ c ∈ tail, c = 0 := by simpa [noData] using hno
    exact absurd (hvalid 0 List.mem_cons_self) (by decide)

/-- Where every byte passes the parity check, channel 2 is parsed (R380, R381). -/
theorem feedbackInstrs_of_bytesValid {f : Feedback} (h : bytesValid (channel2 f)) :
    feedbackInstrs P f = parseSymbols (channel2 f).length ((channel2 f).map P.bidiDecode) := by
  rw [feedbackInstrs, parityOk_iff.mpr h]
  cases hno : noData (channel2 f) with
  | true => rw [eq_nil_of_noData hno h]; rfl
  | false => rfl

/-! ### The parse loop (R383, R384) -/

/-- All that the head of the symbols can be read as: two data symbols under the id 0, or three under the id 7 (R151, R384). -/
theorem datagramHead_eq_some {xs : List BidiSymbol} {r : Instr × Nat} (h : datagramHead xs = some r) :
    ∃ n m tail, xs = .data n :: .data m :: tail ∧
      (n.extractLsb' 2 4 = 0 ∨ n.extractLsb' 2 4 = 7 ∧ ∃ p more, tail = .data p :: more) := by
  unfold datagramHead at h
  split at h
  next n rest =>
    split at h
    next hid =>
      split at h
      next m tail => exact ⟨n, m, tail, rfl, .inl hid⟩
      next => cases h
    next =>
      obtain ⟨hid, hthree⟩ := Option.ite_none_right_eq_some.mp h
      split at hthree
      next m p more => exact ⟨n, m, .data p :: more, rfl, .inr ⟨hid, p, more, rfl⟩⟩
      next => cases hthree
  next => cases h

/-- The parse stops at a symbol that is no `ACK` and begins no datagram. -/
theorem parseSymbols_eq_nil {xs : List BidiSymbol} (n : Nat) (hack : xs.head? ≠ some .ack)
    (hhead : ∀ r, datagramHead xs ≠ some r) : parseSymbols n xs = [] := by
  match n, xs with
  | 0, _ => rfl
  | _ + 1, [] => rfl
  | _ + 1, .ack :: _ => exact absurd rfl hack
  | _ + 1, .data _ :: _ => rw [parseSymbols, Option.eq_none_iff_forall_ne_some.mpr hhead]
  | _ + 1, .nack :: _ => rfl
  | _ + 1, .busy :: _ => rfl
  | _ + 1, .reserved :: _ => rfl

theorem datagramSymbols_ne_nil {i : Instr} {syms : List (BitVec 6)} (h : datagramSymbols i = some syms) : syms ≠ [] := by
  rintro rfl
  cases i <;> cases h

/-- A datagram is read from its own symbols, whatever follows (R151, R152, R383 (c)). -/
theorem datagramHead_append {i : Instr} {syms : List (BitVec 6)} (h : datagramSymbols i = some syms) (xs : List BidiSymbol) :
    datagramHead (syms.map BidiSymbol.data ++ xs) = some (i, syms.length) := by
  cases i with
  | bidiAppPom v =>
    cases h
    simp only [List.map_cons, List.map_nil, List.cons_append, List.nil_append, datagramHead, id_of_firstSymbol,
      value_of_symbols, if_true, List.length_cons, List.length_nil]
  | bidiAppDyn d s =>
    cases h
    have hid : (7#4 : BitVec 4) ≠ 0#4 := by decide
    simp only [List.map_cons, List.map_nil, List.cons_append, List.nil_append, datagramHead, id_of_firstSymbol,
      value_of_symbols, if_neg hid, if_true, List.length_cons, List.length_nil]
  | _ => cases h

/-- The parse takes a datagram with its symbols and goes on behind them. -/
theorem parseSymbols_datagram {i : Instr} {syms : List (BitVec 6)} (h : datagramSymbols i = some syms) (n : Nat)
    (xs : List BidiSymbol) : parseSymbols (n + 1) (syms.map BidiSymbol.data ++ xs) = i :: parseSymbols n xs := by
  have hhead := datagramHead_append h xs
  have hdrop : (syms.map BidiSymbol.data ++ xs).drop syms.length = xs := List.drop_left' (by simp)
  cases syms with
  | nil => exact absurd rfl (datagramSymbols_ne_nil h)
  | cons d syms =>
    simp only [List.map_cons, List.cons_append] at hhead hdrop ⊢
    rw [parseSymbols, hhead]
    exact congrArg (i :: parseSymbols n ·) hdrop

/-! ### Where the parse ends (R383, R384) -/

/-- Where no data symbol comes next, none is decoded (R150). -/
theorem ne_data_of_noDataNext (hP : P.Legal) {bs : List Byte} (h : noDataNext bs) (n : BitVec 6) (tail : List BidiSymbol) :
    bs.map P.bidiDecode ≠ .data n :: tail := by
  rcases h with rfl | ⟨x, more, hx, -, rfl⟩
  · nofun
  · intro hcons
    obtain ⟨hn, -⟩ := List.cons.inj hcons
    rw [bidiDecode_of_mem_specialBytes hP hx] at hn
    exact bidiDefaultDecode_special x (not_mem_bidiDataBytes hx) n hn

/-- `NACK`, `BUSY` and the reserved bytes are neither data nor `ACK` (R150). -/
theorem bidiDecode_of_stopByte (hP : P.Legal) {x : Byte} (h : x ∈ [0x3C#8, 0xE1#8, 0x87#8, 0xC3#8]) :
    P.bidiDecode x = .nack ∨ P.bidiDecode x = .busy ∨ P.bidiDecode x = .reserved := by
  have hall : ∀ c ∈ [0x3C#8, 0xE1#8, 0x87#8, 0xC3#8],
      c ∈ specialBytes ∧ (bidiDefaultDecode c = .nack ∨ bidiDefaultDecode c = .busy ∨ bidiDefaultDecode c = .reserved) := by
    decide
  obtain ⟨hspecial, hstop⟩ := hall x h
  rwa [bidiDecode_of_mem_specialBytes hP hspecial]

/-- Where the parse ends, nothing more is read, however much follows. -/
theorem parseSymbols_of_parseEnd (hP : P.Legal) (henc : ∀ n, P.bidiDecode (enc n) = .data n) {stop : List Byte}
    (h : ParseEnd enc stop) (n : Nat) : parseSymbols n (stop.map P.bidiDecode) = [] := by
  cases h with
  | atEnd => exact parseSymbols_eq_nil n nofun nofun
  | stopByte x tail hx _ =>
    rw [List.map_cons]
    rcases bidiDecode_of_stopByte hP hx with hx | hx | hx <;> rw [hx] <;> exact parseSymbols_eq_nil n nofun nofun
  | otherId d tail h0 h7 _ =>
    rw [List.map_cons, henc]
    refine parseSymbols_eq_nil n nofun fun r hr => ?_
    obtain ⟨_, m, more, hcons, hid⟩ := datagramHead_eq_some hr
    obtain ⟨rfl, -⟩ : d = _ ∧ _ := by simpa using hcons
    exact hid.elim h0 fun ⟨hid, _⟩ => h7 hid
  | noSecond d rest _ hrest =>
    rw [List.map_cons, henc]
    refine parseSymbols_eq_nil n nofun fun r hr => ?_
    obtain ⟨_, m, more, hcons, -⟩ := datagramHead_eq_some hr
    exact ne_data_of_noDataNext hP hrest m more (List.cons.inj hcons).2
  | noThird d m rest h7 hrest =>
    rw [List.map_cons, List.map_cons, henc, henc]
    refine parseSymbols_eq_nil n nofun fun r hr => ?_
    obtain ⟨_, _, tail, hcons, hid⟩ := datagramHead_eq_some hr
    cases hcons
    rcases hid with h0 | ⟨-, p, more, htail⟩
    · rw [h7] at h0
      exact absurd h0 (by decide)
    · exact ne_data_of_noDataNext hP hrest p more htail

/-! ### Channel 2 as a sequence of datagrams (R380 to R384) -/

/-- The bytes of an `ACK` or of a datagram in the code of `BIDI_DECODE` (R150 to R152). -/
def itemBytes (enc : BitVec 6 → Byte) : Byte ⊕ Instr → List Byte
  | .inl b => [b]
  | .inr i => ((datagramSymbols i).getD []).map enc

/-- An `ACK` or a datagram. -/
def ItemOk : Byte ⊕ Instr → Prop
  | .inl b => b = 0x0F#8 ∨ b = 0xF0#8
  | .inr i => (datagramSymbols i).isSome = true

/-- An item is an `ACK` byte or the symbols of a datagram. -/
theorem itemOk_cases {x : Byte ⊕ Instr} (h : ItemOk x) :
    (∃ b, x = .inl b ∧ (b = 0x0F#8 ∨ b = 0xF0#8) ∧ itemBytes enc x = [b]) ∨
    ∃ i syms, x = .inr i ∧ datagramSymbols i = some syms ∧ itemBytes enc x = syms.map enc := by
  match x with
  | .inl b => exact .inl ⟨b, rfl, h, rfl⟩
  | .inr i =>
    obtain ⟨syms, hsyms⟩ := Option.isSome_iff_exists.mp h
    exact .inr ⟨i, syms, rfl, hsyms, by rw [itemBytes, hsyms, Option.getD_some]⟩

theorem itemBytes_ne_nil {x : Byte ⊕ Instr} (h : ItemOk x) : itemBytes enc x ≠ [] := by
  rcases itemOk_cases (enc := enc) h with ⟨b, -, -, hbytes⟩ | ⟨i, syms, -, hsyms, hbytes⟩ <;> rw [hbytes]
  · exact List.cons_ne_nil b []
  · simpa using datagramSymbols_ne_nil hsyms

theorem length_le_flatMap_itemBytes {items : List (Byte ⊕ Instr)} (h : ∀ x ∈ items, ItemOk x) :
    items.length ≤ (items.flatMap (itemBytes enc)).length := by
  induction items with
  | nil => exact Nat.le_refl 0
  | cons x items ih =>
    obtain ⟨hx, hrest⟩ := List.forall_mem_cons.mp h
    have hpos := List.length_pos_iff.mpr (itemBytes_ne_nil (enc := enc) hx)
    rw [List.length_cons, List.flatMap_cons, List.length_append]
    have := ih hrest
    omega

theorem bytesValid_append {bs cs : List Byte} : bytesValid (bs ++ cs) ↔ bytesValid bs ∧ bytesValid cs :=
  List.forall_mem_append

theorem bytesValid_cons {b : Byte} {bs : List Byte} : bytesValid (b :: bs) ↔ popcount b = 4 ∧ bytesValid bs :=
  List.forall_mem_cons

theorem mem_specialBytes_of_ack {b : Byte} (h : b = 0x0F#8 ∨ b = 0xF0#8) : b ∈ specialBytes := by
  rcases h with rfl | rfl <;> decide

theorem bidiDecode_of_ack (hP : P.Legal) {b : Byte} (h : b = 0x0F#8 ∨ b = 0xF0#8) : P.bidiDecode b = .ack := by
  rw [bidiDecode_of_mem_specialBytes hP (mem_specialBytes_of_ack h), bidiDefaultDecode, if_pos h]

theorem bytesValid_itemBytes (hP : P.Legal) (henc : ∀ n, P.bidiDecode (enc n) = .data n) {x : Byte ⊕ Instr} (h : ItemOk x) :
    bytesValid (itemBytes enc x) := by
  rcases itemOk_cases (enc := enc) h with ⟨b, -, hack, hbytes⟩ | ⟨i, syms, -, -, hbytes⟩ <;> rw [hbytes]
  · exact bytesValid_cons.mpr ⟨bytesValid_specialBytes _ (mem_specialBytes_of_ack hack), nofun⟩
  · exact List.forall_mem_map.mpr fun n _ => popcount_enc hP henc n

theorem bytesValid_flatMap_itemBytes (hP : P.Legal) (henc : ∀ n, P.bidiDecode (enc n) = .data n)
    {items : List (Byte ⊕ Instr)} (h : ∀ x ∈ items, ItemOk x) : bytesValid (items.flatMap (itemBytes enc)) := by
  intro b hb
  obtain ⟨x, hx, hmem⟩ := List.mem_flatMap.mp hb
  exact bytesValid_itemBytes hP henc (h x hx) b hmem

theorem bytesValid_of_noDataNext {bs : List Byte} (h : noDataNext bs) : bytesValid bs := by
  rcases h with rfl | ⟨x, tail, hx, htail, rfl⟩
  · nofun
  · exact bytesValid_cons.mpr ⟨bytesValid_specialBytes _ hx, htail⟩

theorem bytesValid_of_parseEnd (hP : P.Legal) (henc : ∀ n, P.bidiDecode (enc n) = .data n) {stop : List Byte}
    (h : ParseEnd enc stop) : bytesValid stop := by
  have hdata := popcount_enc hP henc
  cases h with
  | atEnd => nofun
  | stopByte x tail hx htail =>
    have hspecial : x ∈ specialBytes := List.mem_cons_of_mem _ (List.mem_cons_of_mem _ hx)
    exact bytesValid_cons.mpr ⟨bytesValid_specialBytes _ hspecial, htail⟩
  | otherId n tail _ _ htail => exact bytesValid_cons.mpr ⟨hdata n, htail⟩
  | noSecond n rest _ hrest => exact bytesValid_cons.mpr ⟨hdata n, bytesValid_of_noDataNext hrest⟩
  | noThird n m rest _ hrest =>
    exact bytesValid_cons.mpr ⟨hdata n, bytesValid_cons.mpr ⟨hdata m, bytesValid_of_noDataNext hrest⟩⟩

/-- The parse of a sequence finds its datagrams in order and goes on behind it; each item takes one unit of fuel. -/
theorem parseSymbols_itemBytes (hP : P.Legal) (henc : ∀ n, P.bidiDecode (enc n) = .data n) {items : List (Byte ⊕ Instr)}
    (h : ∀ x ∈ items, ItemOk x) (n : Nat) (stop : List Byte) :
    parseSymbols (n + items.length) ((items.flatMap (itemBytes enc) ++ stop).map P.bidiDecode) =
      items.filterMap Sum.getRight? ++ parseSymbols n (stop.map P.bidiDecode) := by
  induction items with
  | nil => rfl
  | cons x items ih =>
    obtain ⟨hx, hrest⟩ := List.forall_mem_cons.mp h
    rw [List.flatMap_cons, List.append_assoc, List.map_append, List.length_cons, ← Nat.add_assoc]
    rcases itemOk_cases (enc := enc) hx with ⟨b, rfl, hack, hbytes⟩ | ⟨i, syms, rfl, hsyms, hbytes⟩ <;> rw [hbytes]
    · rw [List.map_singleton, bidiDecode_of_ack hP hack, List.singleton_append, parseSymbols, ih hrest]
      rfl
    · have hdecode : (syms.map enc).map P.bidiDecode = syms.map BidiSymbol.data := by simp [henc]
      rw [hdecode, parseSymbols_datagram hsyms, ih hrest]
      rfl

end

/-- Settles O48: channel 2 passes the parity check, and the parse reads its items and stops behind them. -/
theorem datagramParse : Obligations.DatagramParse := by
  intro P enc hP henc
  refine ⟨fun f hzero => ?noData, fun f hparity => ?parity, fun f items stop hack hdatagram hend hch => ?items⟩
  case noData =>
    have hno : noData (channel2 f) = true := by simpa [noData, channel2] using hzero
    rw [feedbackInstrs, hno]
    rfl
  case parity =>
    have hfail : parityOk (channel2 f) = false := by simpa [parityOk, channel2] using hparity
    rw [feedbackInstrs, hfail, Bool.not_false, Bool.or_true]
    rfl
  case items =>
    have hch' : channel2 f = items.flatMap (itemBytes enc) ++ stop := hch
    have hitems : ∀ x ∈ items, ItemOk x := fun x hx =>
      match x with
      | .inl b => hack b hx
      | .inr i => hdatagram i hx
    have hvalid : bytesValid (channel2 f) := by
      rw [hch']
      exact bytesValid_append.mpr ⟨bytesValid_flatMap_itemBytes hP henc hitems, bytesValid_of_parseEnd hP henc hend⟩
    obtain ⟨n, hfuel⟩ : ∃ n, (channel2 f).length = n + items.length := by
      refine Nat.exists_eq_add_of_le' ?_
      rw [hch', List.length_append]
      exact Nat.le_add_right_of_le (length_le_flatMap_itemBytes hitems)
    rw [feedbackInstrs_of_bytesValid hvalid, hfuel, hch', parseSymbols_itemBytes hP henc hitems,
      parseSymbols_of_parseEnd hP henc hend, List.append_nil]

/-! ### The datagram app:pom (R385) -/

/-- A feedback of the POM packet that was sent pops the request and answers it. -/
theorem execBidiAppPom_of_match {s : State} {e : PomReq} {more : List PomReq} (hq : s.cvpom = e :: more) (hs : e.sent = true)
    (hp : s.rxPkt = pomPacket e) (v : Byte) :
    execBidiAppPom v s = .next { s with cvpom := more, events := s.events ++ [eventWord 0x01#8 e.addr e.cvi v] } := by
  simp only [execBidiAppPom, hq, hs, hp, beq_self_eq_true, Bool.and_self, if_true]
  rfl

/-- With no request, an unsent one, or a feedback of another packet nothing happens. -/
theorem execBidiAppPom_of_noMatch {s : State}
    (h : ∀ e more, s.cvpom = e :: more → e.sent = true → s.rxPkt ≠ pomPacket e) (v : Byte) : execBidiAppPom v s = .next s := by
  unfold execBidiAppPom
  split
  next => rfl
  next e more hq =>
    refine if_neg fun hmatch => ?_
    obtain ⟨hs, hp⟩ : e.sent = true ∧ s.rxPkt = pomPacket e := by simpa using hmatch
    exact h e more hq hs hp

/-! ### The datagram app:dyn (R386) -/

/-- The subindices with an update: 0 and 1 carry a speed, 7 the quality of service. -/
theorem dynUpdate_of_mem {x : BitVec 6} (h : x = 0 ∨ x = 1 ∨ x = 7) (dv : Byte) (l : Loco) :
    dynUpdate dv x l =
      some
        (if x = 0 then { l with rcSpeed := dv.setWidth 16, rcOptions := l.rcOptions ||| 0x01 }
        else if x = 1 then { l with rcSpeed := dv.setWidth 16 + 256, rcOptions := l.rcOptions ||| 0x02 }
        else { l with rcQos := dv, rcOptions := l.rcOptions ||| 0x04 }) := by
  rcases h with rfl | rfl | rfl <;> rfl

theorem dynUpdate_of_not_mem {x : BitVec 6} (h0 : x ≠ 0) (h1 : x ≠ 1) (h7 : x ≠ 7) (dv : Byte) (l : Loco) :
    dynUpdate dv x l = none := by
  unfold dynUpdate
  split
  next h => exact absurd (BitVec.eq_of_toNat_eq h) h0
  next h => exact absurd (BitVec.eq_of_toNat_eq h) h1
  next h => exact absurd (BitVec.eq_of_toNat_eq h) h7
  next => rfl

/-- An update is stored in the record of the loco that the packet was for, and told. -/
theorem execBidiAppDyn_of_update {s : State} {a : Addr} {l l' : Loco} {dv : Byte} {x : BitVec 6}
    (ha : dccAddress s.rxPkt = some a) (hl : locoGet a s.locos = some l) (hu : dynUpdate dv x l = some l') :
    execBidiAppDyn dv x s =
      .next { s with locos := locoPut a l' s.locos, events := s.events ++ [eventWord 0x05#8 a 0 0] } := by
  simp only [execBidiAppDyn, ha, hl, hu]
  rfl

/-- Without a loco or with a subindex that has no update nothing happens. -/
theorem execBidiAppDyn_of_noUpdate {s : State} {dv : Byte} {x : BitVec 6}
    (h : ∀ a l, dccAddress s.rxPkt = some a → locoGet a s.locos = some l → dynUpdate dv x l = none) :
    execBidiAppDyn dv x s = .next s := by
  unfold execBidiAppDyn
  split
  next => rfl
  next a ha =>
    split
    next => rfl
    next l hl => rw [h a l ha hl]

/-- Settles O49: `app:pom` by the front of its deque, `app:dyn` by the loco of the packet and the subindex. -/
theorem datagramEffects : Obligations.DatagramEffects := by
  refine ⟨fun v s => ⟨fun e more hq hs hp => execBidiAppPom_of_match hq hs hp v, fun h => execBidiAppPom_of_noMatch h v⟩,
    fun dv x s => ⟨fun a l ha hl hx => execBidiAppDyn_of_update ha hl (dynUpdate_of_mem hx dv l),
      fun h => execBidiAppDyn_of_noUpdate fun a l ha hl => ?_⟩⟩
  rcases h with h | h | ⟨h0, h1, h7⟩
  · cases h.symm.trans ha
  · cases (h a ha).symm.trans hl
  · exact dynUpdate_of_not_mem h0 h1 h7 dv l

end Sys2Proof.Machine
end

section
/-! The steps of DCCDRV phase by phase (R351, R353, R355 to R358), the alarms of the cutout (R361 to R363) and the gate of the
receiver (R370). -/

namespace Sys2Proof.Machine

/-! ### Init (R351) -/

section
variable {s : State} {m : Mode}

/-- The current limit of a mode entry is that of the mode's setting (R531). -/
theorem entryLimit_of_setting {c : Settings} {lim : Byte}
    (h : getSetting c (if m = .dccService then .currentLimitService else .currentLimit) = some lim) :
    entryLimit m c = lim.setWidth 2 := by
  rw [entryLimit, limitSetting, h, Option.getD_some]

theorem dccInit_of_ready (h : settingsPresent s.cfg (settingsNeeded m) = true) :
    dccInit true m s =
      { s with
        act := s.cfg
        curLim := entryLimit m s.cfg
        uartFifo := []
        notify := { pending := false, val := 0 }
        bidiEn := true
        cutout := { s.cutout with phase := .cOff }
        svcack := if m = .dccService then svcAckStart s.svcack else s.svcack
        dcc :=
          { s.dcc with
            bidiOn := decide (m = .dccOperations ∧ s.cfg.bidiBitDuration ≠ some 0)
            phase := .dCheck } } := by
  simp only [dccInit, h, if_true]
  rfl

theorem dccInit_of_hwFail (h : settingsPresent s.cfg (settingsNeeded m) = true) :
    dccInit false m s = raiseFault .hwFail .dccdrv (.dccdrv .dInit) s := by
  simp only [dccInit, h, if_true, Bool.false_eq_true, if_false]

theorem dccInit_of_missing (h : settingsPresent s.cfg (settingsNeeded m) = false) (ok : Bool) :
    dccInit ok m s = raiseFault .uninitSetting .dccdrv (.dccdrv .dInit) s := by
  simp only [dccInit, h, Bool.false_eq_true, if_false]

/-! ### Check and teardown (R208, R353, R358) -/

theorem dccCheck_of_exit (h : s.arbState = stSuspend ∨ s.arbState = stShort) :
    dccCheck s = { s with dcc := { s.dcc with phase := .dTeardown } } :=
  if_pos h

theorem dccCheck_of_mode (hm : s.dcc.mode = some m) (h : s.arbState = modeValue m) :
    dccCheck s = { s with dcc := { s.dcc with phase := .dSelect } } := by
  have hexit : ¬(s.arbState = stSuspend ∨ s.arbState = stShort) := by
    rw [h]
    exact not_or.mpr ⟨modeValue_ne_suspend m, modeValue_ne_short m⟩
  rw [dccCheck, if_neg hexit, hm, Option.map_some, h, if_pos rfl]

theorem dccCheck_of_excluded (hm : s.dcc.mode = some m) (hsuspend : s.arbState ≠ stSuspend) (hshort : s.arbState ≠ stShort)
    (h : s.arbState ≠ modeValue m) : dccCheck s = raiseFault .arbInvariant .dccdrv (.dccdrv .dCheck) s := by
  rw [dccCheck, if_neg (not_or.mpr ⟨hsuspend, hshort⟩), hm, Option.map_some,
    if_neg fun hmode => h (Option.some.inj hmode).symm]

/-- A terminal write leaves `Suspended` after `Suspend` and `ShortCircuit` as it is, whatever the mode was (R208). -/
theorem terminalValue_of_exit (own : Option Mode) {v : BitVec 16} (h : v = stSuspend ∨ v = stShort) :
    terminalValue own v = some (if v = stSuspend then stSuspended else stShort) := by
  rcases h with rfl | rfl
  · exact if_pos (.inl rfl)
  · have hown : ¬(stShort = stSuspend ∨ own.map modeValue = some stShort) := by
      rintro (h | h)
      · exact absurd h (by decide)
      · obtain ⟨m, -, hm⟩ := Option.map_eq_some_iff.mp h
        exact modeValue_ne_short m hm
    exact (if_neg hown).trans (if_pos rfl)

theorem dccTeardown_of_exit (h : s.arbState = stSuspend ∨ s.arbState = stShort) :
    dccTeardown true s =
      { s with
        frontq := [], backq := [], feedbackq := [], ackbuf := none, uartFifo := []
        notify := { pending := false, val := 0 }
        bidiEn := true
        cutout := { s.cutout with phase := .cOff }
        svcack := { s.svcack with phase := .aOff }
        arbState := if s.arbState = stSuspend then stSuspended else stShort
        dcc := { s.dcc with mode := none, cur := none, bidiOn := false, phase := .dIdle } } := by
  simp only [dccTeardown, if_true, terminalValue_of_exit s.dcc.mode h]
  rfl

theorem dccTeardown_of_hwFail : dccTeardown false s = raiseFault .hwFail .dccdrv (.dccdrv .dTeardown) s := rfl

end

/-! ### The steps of init, check and teardown -/

section
variable {s : State} {rest : List Move} {ok : Bool}

/-- DCCDRV's step outside `D_TX`, where it runs no instruction. -/
theorem step_dccdrv {t : State} (hnext : NextIs s (.dccdrv ok) rest) (hp : s.dcc.phase ≠ .dTx)
    (ht : dccStep Config.params ok (took rest s) = .run [] t) : step s = .next t :=
  step_of_moveStep hnext ((dccMove_eq_dccStep (s := took rest s) hp).trans ht)

variable (hnext : NextIs s (.dccdrv ok) rest)
include hnext

theorem step_dccInit {m : Mode} (hp : s.dcc.phase = .dInit) (hm : s.dcc.mode = some m) :
    step s = .next (dccInit ok m (took rest s)) :=
  step_dccdrv hnext (by simp [hp]) (by simp only [dccStep, took_dcc, hp, hm])

theorem step_dccCheck (hp : s.dcc.phase = .dCheck) : step s = .next (dccCheck (took rest s)) :=
  step_dccdrv hnext (by simp [hp]) (by simp only [dccStep, took_dcc, hp])

theorem step_dccTeardown (hp : s.dcc.phase = .dTeardown) : step s = .next (dccTeardown ok (took rest s)) :=
  step_dccdrv hnext (by simp [hp]) (by simp only [dccStep, took_dcc, hp])

theorem step_dCutoutWait_notified (hp : s.dcc.phase = .dCutoutWait) (hn : s.notify.pending = true) :
    step s = .next { took rest s with dcc := { s.dcc with phase := .dCapture } } :=
  step_dccdrv hnext (by simp [hp]) (by simp only [dccStep, took_dcc, took_notify, hp, hn, if_true])

theorem step_dCutoutWait_held (hp : s.dcc.phase = .dCutoutWait) (hn : s.notify.pending = false) :
    step s = .next (took rest s) :=
  step_dccdrv hnext (by simp [hp]) (by simp only [dccStep, took_dcc, took_notify, hp, hn, Bool.false_eq_true, if_false])

theorem step_dccCapture (hp : s.dcc.phase = .dCapture) : step s = .next (dccCapture Config.params (took rest s)) :=
  step_dccdrv hnext (by simp [hp]) (by simp only [dccStep, took_dcc, hp])

end

/-- Settles O43: the init of a mode whose settings are all there, and its two faults. -/
theorem dccInitStep : Obligations.DccInitStep := by
  intro s rest ok m hnext hp hm _
  have hstep := step_dccInit hnext hp hm
  refine ⟨fun lim hlim hset hok => ?ready, fun hset hok => ?hwFail, fun hset _ => ?missing⟩
  case ready =>
    subst hok
    rw [hstep, dccInit_of_ready (s := took rest s) hset, ← entryLimit_of_setting hlim]
    rfl
  case hwFail =>
    subst hok
    exact hstep.trans (congrArg _ (dccInit_of_hwFail (s := took rest s) hset))
  case missing => exact hstep.trans (congrArg _ (dccInit_of_missing (s := took rest s) hset ok))

/-- Settles O44: the check by what `STATE` holds, and the teardown after `Suspend` and `ShortCircuit`. -/
theorem dccCheckAndTeardown : Obligations.DccCheckAndTeardown := by
  intro s rest ok hnext
  refine ⟨fun hp => ?check, fun hp hok _ => ?hwFail, fun hp hok hv => ?teardown⟩
  case check =>
    have hstep := step_dccCheck hnext hp
    exact ⟨fun hv => hstep.trans (congrArg _ (dccCheck_of_exit (s := took rest s) hv)),
      fun m hm hv => hstep.trans (congrArg _ (dccCheck_of_mode (s := took rest s) hm hv)),
      fun m hm hsuspend hshort hv => hstep.trans (congrArg _ (dccCheck_of_excluded (s := took rest s) hm hsuspend hshort hv))⟩
  case hwFail =>
    subst hok
    exact (step_dccTeardown hnext hp).trans (congrArg _ dccTeardown_of_hwFail)
  case teardown =>
    subst hok
    exact (step_dccTeardown hnext hp).trans (congrArg _ (dccTeardown_of_exit (s := took rest s) hv))

/-! ### The end of a transmission (R355, R462, R464) -/

section
variable {s : State} {p : Packet}

theorem firstAction_of_on (h : s.svcack.phase ≠ .aOff) :
    firstAction s = { s with svcack := { s.svcack with ref := some s.svcack.sum, ackSeen := false, phase := .aArmed } } := by
  unfold firstAction
  split
  next hoff => exact absurd hoff h
  next => rfl
  next => rfl

theorem endAction_of_armed (h : s.svcack.phase = .aArmed) :
    endAction s = { s with ackbuf := some s.svcack.ackSeen, svcack := { s.svcack with phase := .aIdle } } := by
  simp only [endAction, h]

theorem endAction_of_not_armed (h : s.svcack.phase ≠ .aArmed) : endAction s = s := by
  unfold endAction
  split
  next harmed => exact absurd harmed h
  next => rfl
  next => rfl

/-- A detector that is off takes no notice of a tag. -/
theorem tagActions_of_off (p : Packet) (h : s.svcack.phase = .aOff) : tagActions p s = s := by
  have hfirst : firstAction s = s := by simp only [firstAction, h]
  have hend : endAction s = s := endAction_of_not_armed (by simp [h])
  simp only [tagActions, hfirst, ite_self, hend]

/-- A detector that is on takes its reference at a `FIRST` tag and, once armed, stores its ack bit at an `END` tag. -/
theorem tagActions_of_on (p : Packet) (h : s.svcack.phase ≠ .aOff) :
    tagActions p s =
      { s with
        ackbuf :=
          if p.last = true ∧ (p.first = true ∨ s.svcack.phase = .aArmed) then
            some (if p.first then false else s.svcack.ackSeen)
          else s.ackbuf
        svcack :=
          { s.svcack with
            ref := if p.first then some s.svcack.sum else s.svcack.ref
            ackSeen := if p.first then false else s.svcack.ackSeen
            phase := if p.last then .aIdle else if p.first then .aArmed else s.svcack.phase } } := by
  cases hf : p.first with
  | true =>
    cases hl : p.last with
    | true => simp only [tagActions, hf, hl, if_true, firstAction_of_on h]; rfl
    | false => simp [tagActions, hf, hl, firstAction_of_on h]
  | false =>
    cases hl : p.last with
    | false => simp [tagActions, hf, hl]
    | true =>
      cases hp : s.svcack.phase with
      | aOff => exact absurd hp h
      | aIdle =>
        have hidle : { s.svcack with phase := SvcAckPhase.aIdle } = s.svcack := by rw [← hp]
        simp [tagActions, hf, hl, endAction_of_not_armed, hp, hidle]
      | aArmed => simp [tagActions, hf, hl, endAction_of_armed hp]

/-- All that the tags of a packet do (R355, R462, R464). -/
theorem tagActions_result (p : Packet) (s : State) :
    tagActions p s =
      { s with
        ackbuf :=
          if s.svcack.phase ≠ .aOff ∧ p.last = true ∧ (p.first = true ∨ s.svcack.phase = .aArmed) then
            some (if p.first then false else s.svcack.ackSeen)
          else s.ackbuf
        svcack :=
          if s.svcack.phase = .aOff then s.svcack
          else
            { s.svcack with
              ref := if p.first then some s.svcack.sum else s.svcack.ref
              ackSeen := if p.first then false else s.svcack.ackSeen
              phase := if p.last then .aIdle else if p.first then .aArmed else s.svcack.phase } } := by
  by_cases hoff : s.svcack.phase = .aOff
  · rw [tagActions_of_off p hoff]
    simp [hoff]
  · rw [tagActions_of_on p hoff]
    simp [hoff]

/-- Behind the actions of the tags, the cutout starts or the next check follows (R355). -/
theorem dccTxDone_of_current (hc : s.dcc.cur = some p) :
    dccTxDone s =
      { s with
        ackbuf := (tagActions p s).ackbuf
        svcack := (tagActions p s).svcack
        cutout := if s.dcc.bidiOn then { s.cutout with t0 := s.now, phase := .cWaitTcs } else s.cutout
        dcc := { s.dcc with phase := if s.dcc.bidiOn then .dCutoutWait else .dCheck } } := by
  cases hb : s.dcc.bidiOn <;> simp [dccTxDone, hc, hb, tagActions_result]

end

section
variable {s : State} {rest : List Move} {ok : Bool}
variable (hnext : NextIs s (.dccdrv ok) rest) (hp : s.dcc.phase = .dTx)
include hnext hp

/-- DCCDRV is held before `tx_end` (log 2). -/
theorem step_dTx_early (h : s.now < s.dcc.txEnd) : step s = .next (took rest s) := by
  have hdue : dccTxDue (took rest s) = false := by simp [dccTxDue, Nat.not_le.mpr h]
  refine step_of_moveStep hnext ?_
  simp only [moveStep, dccMove, hdue, dccStep, took_dcc, hp, Bool.false_and, Bool.false_eq_true, if_false]

/-- From `tx_end` on the transmission ends, unless an alarm of the cutout comes first (R511). -/
theorem step_dTx_done (h : s.dcc.txEnd ≤ s.now) (hcutout : cutoutDue Config.params s = false) :
    step s = .next (dccTxDone (took rest s)) := by
  have hdue : dccTxDue (took rest s) = true := by simp [dccTxDue, hp, h]
  have hmay : class2May Config.params (took rest s) = true := congrArg not hcutout
  refine step_of_moveStep hnext ?_
  simp only [moveStep, dccMove, hdue, hmay, dccStep, took_dcc, hp, Bool.not_true, Bool.and_false, Bool.false_eq_true,
    if_false, if_true]

end

/-- Settles O45: held before `tx_end`; then the tags, for a detector that is off and one that is on, and the cutout or the check. -/
theorem txDoneStep : Obligations.TxDoneStep := by
  intro s rest ok p hnext hp hc
  refine ⟨fun h => step_dTx_early hnext hp h, fun h hcutout => ?_⟩
  rw [step_dTx_done hnext hp h hcutout, dccTxDone_of_current (s := took rest s) hc, tagActions_result]
  rfl

/-! ### The cutout (R361 to R363) -/

section
variable {s : State} {rest : List Move}

/-- CUTOUT's step ends where its move does. -/
theorem step_cutout (hnext : NextIs s .cutout rest) : step s = .next (cutoutStep Config.params (took rest s)) :=
  step_of_moveStep hnext rfl

theorem cutoutStep_tcs {P : Params} (hp : s.cutout.phase = .cWaitTcs) (ht : s.now = s.cutout.t0 + P.tTcs) :
    cutoutStep P s = cutoutTcs s := by
  simp [cutoutStep, cutoutDue, hp, ht]

theorem cutoutStep_ts2 {P : Params} (hp : s.cutout.phase = .cWaitTs2) (ht : s.now = s.cutout.t0 + P.tTs2) :
    cutoutStep P s = cutoutTs2 s := by
  simp [cutoutStep, cutoutDue, hp, ht]

theorem cutoutStep_tce {P : Params} (hp : s.cutout.phase = .cWaitTce) (ht : s.now = s.cutout.t0 + P.tTce) :
    cutoutStep P s = cutoutTce s := by
  simp [cutoutStep, cutoutDue, hp, ht]

end

/-- Bit 0 of `NOTIFY.val` is channel 1, bit 1 is channel 2 (R126). -/
theorem notifyVal_bits (ch1 ch2 : Bool) :
    (notifyVal ch1 ch2).getLsbD 0 = ch1 ∧ (notifyVal ch1 ch2).getLsbD 1 = ch2 := by
  cases ch1 <;> cases ch2 <;> exact ⟨rfl, rfl⟩

/-- Settles O46: each alarm is due at its instant, and CUTOUT takes it. -/
theorem cutoutAlarms : Obligations.CutoutAlarms := by
  intro s rest hnext
  have hstep := step_cutout hnext
  refine ⟨fun hp ht => ?tcs, fun hp ht => ?ts2, fun hp ht => ?tce⟩
  case tcs => exact hstep.trans (congrArg _ (cutoutStep_tcs (s := took rest s) hp ht))
  case ts2 => exact hstep.trans (congrArg _ (cutoutStep_ts2 (s := took rest s) hp ht))
  case tce =>
    obtain ⟨hch1, hch2⟩ := notifyVal_bits s.cutout.ch1 (decide (s.cutout.ts2Len < s.uartFifo.length))
    exact ⟨_, hch1, hch2, hstep.trans (congrArg _ (cutoutStep_tce (s := took rest s) hp ht))⟩

/-! ### The receiver gate (R370) -/

/-- `@UART b` is taken up where environment inputs may come: kept by the gate or lost. -/
theorem step_uart {s : State} {rest : List Move} {b : Byte} (hnext : NextIs s (.uart b) rest)
    (hmay : class3May Config.params s = true) : step s = .next (uartStep Config.params b (took rest s)) := by
  have hmay' : class3May Config.params (took rest s) = true := hmay
  refine step_of_moveStep hnext ?_
  rw [moveStep, envMove, if_pos hmay']

theorem uartStep_eq (P : Params) (b : Byte) (s : State) :
    uartStep P b s =
      if s.dcc.bidiOn = true ∧ s.bidiEn = false ∧ s.uartFifo.length < P.uartFifoSize then
        { s with uartFifo := s.uartFifo ++ [b] }
      else s := by
  simp [uartStep, uartAccepts, and_assoc]

/-! ### The capture (R357) -/

/-- A buffer that holds its bytes is filled up with zeros. -/
theorem datagramBuffer_eq {skip : Nat} {bytes : List Byte} (h : skip + bytes.length ≤ 8) :
    datagramBuffer skip bytes =
      List.replicate skip 0 ++ bytes ++ List.replicate (8 - (skip + bytes.length)) 0 := by
  have hlen : (List.replicate skip (0 : Byte) ++ bytes).length = skip + bytes.length := by simp
  rw [datagramBuffer, List.take_append, hlen, List.take_of_length_le (hlen ▸ h), List.take_replicate,
    Nat.min_eq_left (Nat.sub_le 8 _)]

theorem length_datagramBuffer (skip : Nat) (bytes : List Byte) : (datagramBuffer skip bytes).length = 8 := by
  simp only [datagramBuffer, List.length_take, List.length_append, List.length_replicate]
  omega

/-- A buffer reads as the bytes skipped, then its bytes, then zeros (R357). -/
theorem datagramBuffer_parts {skip : Nat} {bytes : List Byte} (h : skip + bytes.length ≤ 8) :
    (datagramBuffer skip bytes).take skip = List.replicate skip 0 ∧
    ((datagramBuffer skip bytes).drop skip).take bytes.length = bytes ∧
    ∀ x ∈ (datagramBuffer skip bytes).drop (skip + bytes.length), x = 0 := by
  rw [datagramBuffer_eq h]
  refine ⟨?_, ?_, fun x hx => ?_⟩
  · rw [List.append_assoc, List.take_left' List.length_replicate]
  · rw [List.append_assoc, List.drop_left' List.length_replicate, List.take_left]
  · rw [List.drop_left' (by simp)] at hx
    exact List.eq_of_mem_replicate hx

theorem capturedEntry_eq_none_iff {pkt fifo : List Byte} {v : BitVec 2} : capturedEntry pkt v fifo = none ↔ v = 0 := by
  constructor
  · intro h
    by_contra hv
    rw [capturedEntry, if_neg hv] at h
    split at h <;> cases h
  · rintro rfl
    rfl

/-- With channel 1 the capture reads from it on; with channel 2 alone it skips the bytes of channel 1 (R357 (b), (c)). -/
theorem capturedEntry_eq_some {pkt fifo : List Byte} {v : BitVec 2} {e : Feedback} (h : capturedEntry pkt v fifo = some e) :
    e.pkt = pkt ∧
    ((v.getLsbD 0 = true ∧ e.dg = datagramBuffer 0 (fifo.take 8) ∧ e.n1 = min (min fifo.length 8) 2 ∧
        e.n2 = min fifo.length 8 - min (min fifo.length 8) 2) ∨
      (v.getLsbD 0 = false ∧ e.dg = datagramBuffer 2 (fifo.take 6) ∧ e.n1 = 0 ∧ e.n2 = min fifo.length 6)) := by
  obtain ⟨-, h⟩ := Option.ite_none_left_eq_some.mp h
  cases hb : v.getLsbD 0 <;> rw [hb] at h <;> cases h
  · exact ⟨rfl, .inr ⟨rfl, rfl, rfl, rfl⟩⟩
  · exact ⟨rfl, .inl ⟨rfl, rfl, rfl, rfl⟩⟩

/-- What the capture forwards with channel 1 (R357 (b)). -/
theorem capturedEntry_channel1 {pkt fifo : List Byte} {v : BitVec 2} {e : Feedback} (h : capturedEntry pkt v fifo = some e)
    (hv : v.getLsbD 0 = true) :
    e.n1 + e.n2 = min fifo.length 8 ∧ e.n1 = min fifo.length 2 ∧ e.dg.take (e.n1 + e.n2) = fifo.take 8 ∧
      ∀ x ∈ e.dg.drop (e.n1 + e.n2), x = 0 := by
  obtain ⟨-, ⟨-, hdg, hn1, hn2⟩ | ⟨hv', -⟩⟩ := capturedEntry_eq_some h
  · have hlen : (fifo.take 8).length = min fifo.length 8 := by rw [List.length_take, Nat.min_comm]
    have hsum : e.n1 + e.n2 = min fifo.length 8 := by omega
    obtain ⟨-, hbytes, hzeros⟩ := datagramBuffer_parts (skip := 0) (bytes := fifo.take 8) (by omega)
    rw [Nat.zero_add] at hzeros
    rw [hsum, hdg, ← hlen]
    exact ⟨rfl, by omega, hbytes, hzeros⟩
  · rw [hv] at hv'
    cases hv'

/-- What the capture forwards with channel 2 alone (R357 (c)). -/
theorem capturedEntry_channel2 {pkt fifo : List Byte} {e : Feedback} (h : capturedEntry pkt 2 fifo = some e) :
    e.n1 = 0 ∧ e.n2 = min fifo.length 6 ∧ e.dg.take 2 = [0, 0] ∧ (e.dg.drop 2).take e.n2 = fifo.take 6 ∧
      ∀ x ∈ e.dg.drop (2 + e.n2), x = 0 := by
  obtain ⟨-, ⟨hv, -⟩ | ⟨-, hdg, hn1, hn2⟩⟩ := capturedEntry_eq_some h
  · cases hv
  · have hlen : (fifo.take 6).length = min fifo.length 6 := by rw [List.length_take, Nat.min_comm]
    obtain ⟨hskip, hbytes, hzeros⟩ := datagramBuffer_parts (skip := 2) (bytes := fifo.take 6) (by omega)
    rw [hn2, hdg, ← hlen]
    exact ⟨hn1, rfl, hskip, hbytes, hzeros⟩

theorem capturedEntry_pkt {pkt fifo : List Byte} {v : BitVec 2} {e : Feedback} (h : capturedEntry pkt v fifo = some e) :
    e.pkt = pkt ∧ e.dg.length = 8 := by
  obtain ⟨hpkt, ⟨-, hdg, -⟩ | ⟨-, hdg, -⟩⟩ := capturedEntry_eq_some h <;>
    exact ⟨hpkt, hdg ▸ length_datagramBuffer _ _⟩

/-- What the capture clears and where it goes, with the entry it forwards (R357). -/
theorem dccCapture_of_current {P : Params} {s : State} {p : Packet} (hc : s.dcc.cur = some p) :
    dccCapture P s =
      { s with
        feedbackq :=
          if s.feedbackq.length < P.feedbackCap then
            s.feedbackq ++ (capturedEntry p.bytes s.notify.val s.uartFifo).toList
          else s.feedbackq
        notify := { pending := false, val := 0 }
        uartFifo := []
        dcc := { s.dcc with phase := .dCheck } } := by
  simp only [dccCapture, hc, pushFeedback_eq]
  rfl

/-- Settles O47: the gate, the wait for the notification, and the capture with the entry it forwards. -/
theorem uartGateAndCapture : Obligations.UartGateAndCapture := by
  refine ⟨fun s rest b hnext hmay => ?gate, fun s rest ok hnext hp => ?wait, fun s rest ok p hnext hp hc => ?capture⟩
  case gate => exact (step_uart hnext hmay).trans (congrArg _ (uartStep_eq _ b (took rest s)))
  case wait => exact ⟨step_dCutoutWait_notified hnext hp, step_dCutoutWait_held hnext hp⟩
  case capture =>
    refine ⟨capturedEntry p.bytes s.notify.val s.uartFifo, capturedEntry_eq_none_iff, fun e he => ?entry,
      (step_dccCapture hnext hp).trans (congrArg _ (dccCapture_of_current (s := took rest s) hc))⟩
    obtain ⟨hpkt, hlen⟩ := capturedEntry_pkt he
    exact ⟨hpkt, hlen, capturedEntry_channel1 he, fun hv => capturedEntry_channel2 (hv ▸ he)⟩

end Sys2Proof.Machine
end

section
/-! A session of DECUPDRV (R401, R403, R404, R410), and its ACK detection (R405 to R407, R411, R412, R415). -/

namespace Sys2Proof.Machine

/-! ### `STATE` in a driver's mode, and the terminal write (R208) -/

theorem not_exit_of_mode {m : Mode} {v : BitVec 16} (h : v = modeValue m) : ¬(v = stSuspend ∨ v = stShort) := by
  rw [h]
  exact not_or.mpr ⟨modeValue_ne_suspend m, modeValue_ne_short m⟩

/-- A terminal write keeps `ShortCircuit` and leaves `Suspended` after `Suspend` and after the driver's own mode (R208). -/
theorem terminalValue_of_leaving {m : Mode} {v : BitVec 16} (h : v = stSuspend ∨ v = stShort ∨ v = modeValue m) :
    terminalValue (some m) v = some (if v = stShort then stShort else stSuspended) := by
  rcases h with rfl | rfl | rfl
  · exact terminalValue_of_exit _ (.inl rfl)
  · exact terminalValue_of_exit _ (.inr rfl)
  · rw [terminalValue, if_pos (.inr rfl), if_neg (modeValue_ne_short m)]

/-! ### The phases of a session, by result -/

section
variable {P : Params} {s : State} {m : Mode}

/-- The entry latches the settings and starts with a cleared detector (R401). -/
theorem decupInit_of_limit {lim : Byte} (h : s.cfg.currentLimit = some lim) :
    decupInit P true s =
      { s with
        act := s.cfg
        curLim := lim.setWidth 2
        decup :=
          { s.decup with
            edges := 0, raw := 0, idKnown := false, exitTimeout := false, phase := .uCheck
            idleDeadline := s.now + P.sessionTimeoutDecup } } := by
  simp only [decupInit, getSetting, h, if_true]

theorem decupInit_of_hwFail {lim : Byte} (h : s.cfg.currentLimit = some lim) :
    decupInit P false s = raiseFault .hwFail .decupdrv (.decupdrv .uInit) s := by
  simp only [decupInit, getSetting, h, Bool.false_eq_true, if_false]

theorem decupInit_of_missing (h : s.cfg.currentLimit = none) (ok : Bool) :
    decupInit P ok s = raiseFault .uninitSetting .decupdrv (.decupdrv .uInit) s := by
  simp only [decupInit, getSetting, h]

theorem decupCheck_of_exit (h : s.arbState = stSuspend ∨ s.arbState = stShort) :
    decupCheck s = { s with decup := { s.decup with phase := .uTeardown } } :=
  if_pos h

theorem decupCheck_of_mode (hm : s.decup.mode = some m) (h : s.arbState = modeValue m) :
    decupCheck s = { s with decup := { s.decup with phase := .uWaitPkt } } := by
  rw [decupCheck, if_neg (not_exit_of_mode h), hm, Option.map_some, h, if_pos rfl]

theorem decupCheck_of_foreign (hm : s.decup.mode = some m) (hsuspend : s.arbState ≠ stSuspend)
    (hshort : s.arbState ≠ stShort) (h : s.arbState ≠ modeValue m) :
    decupCheck s = raiseFault .arbInvariant .decupdrv (.decupdrv .uCheck) s := by
  rw [decupCheck, if_neg (not_or.mpr ⟨hsuspend, hshort⟩), hm, Option.map_some,
    if_neg fun hmode => h (Option.some.inj hmode).symm]

theorem decupWaitPkt_of_left (h : s.arbState ≠ modeValue m) :
    decupWaitPkt P m s = { s with decup := { s.decup with phase := .uCheck } } :=
  if_pos h

/-- The oldest packet is transmitted (R404 (b)). -/
theorem decupWaitPkt_of_packet {pkt : List Byte} {more : List (List Byte)} (h : s.arbState = modeValue m)
    (hq : s.decupInq = pkt :: more) :
    decupWaitPkt P m s =
      { s with
        decupInq := more
        track := s.track ++ (P.decupSymbols pkt).map fun x => (m, x)
        decup := { s.decup with cur := some pkt, phase := .uTx, txEnd := s.now + symbolsDur (P.decupSymbols pkt) } } := by
  simp only [decupWaitPkt, if_neg (not_not.mpr h), hq]
  rfl

theorem decupWaitPkt_of_timeout (h : s.arbState = modeValue m) (hq : s.decupInq = [])
    (ht : s.decup.idleDeadline ≤ s.now) :
    decupWaitPkt P m s = { s with decup := { s.decup with exitTimeout := true, phase := .uTeardown } } := by
  simp only [decupWaitPkt, if_neg (not_not.mpr h), hq, if_pos ht]

/-- The teardown empties the queues, clears the detector and makes the terminal write (R208, R410). -/
theorem decupTeardown_of_leaving (hm : s.decup.mode = some m)
    (h : s.arbState = stSuspend ∨ s.arbState = stShort ∨ s.arbState = modeValue m) :
    decupTeardown true s =
      { s with
        decupInq := [], decupReply := []
        arbState := if s.arbState = stShort then stShort else stSuspended
        decup :=
          { s.decup with
            edges := 0, raw := 0, idKnown := false, mode := none, cur := none, exitTimeout := false
            phase := .uIdle } } := by
  simp only [decupTeardown, if_true, hm, terminalValue_of_leaving h]
  rfl

theorem decupTeardown_of_hwFail : decupTeardown false s = raiseFault .hwFail .decupdrv (.decupdrv .uTeardown) s := rfl

end

/-! ### The steps of a session -/

/-- The phases in which DECUPDRV's step is not urgent (R510). -/
def decupSessionPhases : List DecupPhase :=
  [.uIdle, .uInit, .uCheck, .uWaitPkt, .uTeardown]

/-- The phases of the polls, whose steps are of class 4 (R511). -/
def decupPollPhases : List DecupPhase :=
  [.uWin1, .uWin2, .uSettle]

theorem decupMove_of_session {P : Params} {ok : Bool} {s : State} (h : s.decup.phase ∈ decupSessionPhases) :
    decupMove P ok s = decupAct P ok s := by
  simp only [decupSessionPhases, List.mem_cons, List.not_mem_nil, or_false] at h
  rcases h with h | h | h | h | h <;> simp only [decupMove, h]

theorem decupMove_of_poll {P : Params} {ok : Bool} {s : State} (h : s.decup.phase ∈ decupPollPhases) :
    decupMove P ok s = if decupPollDue P s && class4May P s then { decupAct P ok s with polled := true } else s := by
  simp only [decupPollPhases, List.mem_cons, List.not_mem_nil, or_false] at h
  rcases h with h | h | h <;> simp only [decupMove, h]

section
variable {s : State} {rest : List Move} {ok : Bool} {m : Mode}
variable (hnext : NextIs s (.decupdrv ok) rest)
include hnext

/-- DECUPDRV's step outside its urgent phases. -/
theorem step_decupSession (hp : s.decup.phase ∈ decupSessionPhases) :
    step s = .next (decupAct Config.params ok (took rest s)) :=
  step_of_moveStep hnext (congrArg (Advance.run []) (decupMove_of_session (s := took rest s) hp))

theorem step_decupInit (hp : s.decup.phase = .uInit) : step s = .next (decupInit Config.params ok (took rest s)) := by
  rw [step_decupSession hnext (by simp [hp, decupSessionPhases])]
  simp only [decupAct, took_decup, hp]

theorem step_decupCheck (hp : s.decup.phase = .uCheck) : step s = .next (decupCheck (took rest s)) := by
  rw [step_decupSession hnext (by simp [hp, decupSessionPhases])]
  simp only [decupAct, took_decup, hp]

theorem step_decupWaitPkt (hp : s.decup.phase = .uWaitPkt) (hm : s.decup.mode = some m) :
    step s = .next (decupWaitPkt Config.params m (took rest s)) := by
  rw [step_decupSession hnext (by simp [hp, decupSessionPhases])]
  simp only [decupAct, took_decup, hp, hm]

theorem step_decupTeardown (hp : s.decup.phase = .uTeardown) : step s = .next (decupTeardown ok (took rest s)) := by
  rw [step_decupSession hnext (by simp [hp, decupSessionPhases])]
  simp only [decupAct, took_decup, hp]

end

/-- Settles O50: the init, the check, the wait and the teardown, each by what its phase finds, and their faults. -/
theorem decupSession : Obligations.DecupSession := by
  intro s rest ok m hnext hm
  have hinit := step_decupInit hnext
  have hcheck := step_decupCheck hnext
  have hwait := fun hp => step_decupWaitPkt hnext hp hm
  have hteardown := step_decupTeardown hnext
  refine ⟨fun hp hlim _ => ?initMissing, fun lim hp hlim hok => ?initHwFail,
    fun hp hsuspend hshort hv => ?checkForeign, fun hp _ hok => ?teardownHwFail, fun lim hp hlim hok => ?initDone,
    fun hp hv => ?checkExit, fun hp hv => ?checkMode, fun hp hv => ?waitLeft, fun pkt more hp hv hq => ?waitPacket,
    fun hp hv hq ht => ?waitTimeout, fun hp hv hok => ?teardownDone⟩
  case initMissing => exact (hinit hp).trans (congrArg _ (decupInit_of_missing (s := took rest s) hlim ok))
  case initHwFail =>
    subst hok
    exact (hinit hp).trans (congrArg _ (decupInit_of_hwFail (s := took rest s) hlim))
  case initDone =>
    subst hok
    exact (hinit hp).trans (congrArg _ (decupInit_of_limit (s := took rest s) hlim))
  case checkForeign =>
    exact (hcheck hp).trans (congrArg _ (decupCheck_of_foreign (s := took rest s) hm hsuspend hshort hv))
  case checkExit => exact (hcheck hp).trans (congrArg _ (decupCheck_of_exit (s := took rest s) hv))
  case checkMode => exact (hcheck hp).trans (congrArg _ (decupCheck_of_mode (s := took rest s) hm hv))
  case waitLeft => exact (hwait hp).trans (congrArg _ (decupWaitPkt_of_left (s := took rest s) hv))
  case waitPacket => exact (hwait hp).trans (congrArg _ (decupWaitPkt_of_packet (s := took rest s) hv hq))
  case waitTimeout => exact (hwait hp).trans (congrArg _ (decupWaitPkt_of_timeout (s := took rest s) hv hq ht))
  case teardownHwFail =>
    subst hok
    exact (hteardown hp).trans (congrArg _ decupTeardown_of_hwFail)
  case teardownDone =>
    subst hok
    exact (hteardown hp).trans (congrArg _ (decupTeardown_of_leaving (s := took rest s) hm hv))

/-! ### Edges (R406, R436) -/

section
variable {P : Params} {s : State}

theorem decupEdge_of_window (h : s.decup.phase = .uWin1 ∨ s.decup.phase = .uWin2) :
    decupEdge s = { s with decup := { s.decup with edges := edgeCount s.decup.edges } } := by
  rcases h with h | h <;> simp only [decupEdge, h]

theorem decupEdge_of_outside (h1 : s.decup.phase ≠ .uWin1) (h2 : s.decup.phase ≠ .uWin2) : decupEdge s = s := by
  unfold decupEdge
  split
  next h => exact absurd h h1
  next h => exact absurd h h2
  all_goals rfl

theorem mduCapture_of_not_mTx (h : s.mdu.phase ≠ .mTx) : mduCapture P s = s := by
  unfold mduCapture
  split
  next hp _ => exact absurd hp h
  next => rfl

/-- DECUPEDGE does not write MDU's registers (R406). -/
@[simp] theorem decupEdge_mdu : (decupEdge s).mdu = s.mdu := by
  unfold decupEdge
  split <;> rfl

/-- MDUCAP does not write DECUP's registers (R436). -/
@[simp] theorem mduCapture_decup : (mduCapture P s).decup = s.decup := by
  unfold mduCapture
  split <;> rfl

end

section
variable {s : State} {rest : List Move} (hnext : NextIs s .edge rest)
include hnext

/-- `@EDGE` reaches both detectors where environment inputs may come, and is lost else (R406, R436, log 12). -/
theorem step_edge :
    step s =
      .next
        (if class3May Config.params s then mduCapture Config.params (decupEdge (took rest s)) else took rest s) :=
  step_of_moveStep hnext rfl

/-- In a window of DECUP the edge is counted, up to 255 (R406). -/
theorem step_edge_of_window (hmay : class3May Config.params s = true) (hmdu : s.mdu.phase ≠ .mTx)
    (hp : s.decup.phase = .uWin1 ∨ s.decup.phase = .uWin2) :
    step s = .next { took rest s with decup := { s.decup with edges := edgeCount s.decup.edges } } := by
  have hmdu' : (decupEdge (took rest s)).mdu.phase ≠ .mTx := by simpa using hmdu
  rw [step_edge hnext, if_pos hmay, mduCapture_of_not_mTx hmdu', decupEdge_of_window (s := took rest s) hp]
  rfl

/-- Outside the windows of DECUP the edge is MDUCAP's alone (R406). -/
theorem step_edge_of_outside (h1 : s.decup.phase ≠ .uWin1) (h2 : s.decup.phase ≠ .uWin2) :
    step s =
      .next (if class3May Config.params s then mduCapture Config.params (took rest s) else took rest s) := by
  rw [step_edge hnext, decupEdge_of_outside (s := took rest s) h1 h2]

end

/-! ### The reply consumer (R415) -/

theorem replyDecupStep_of_cons {s : State} {c : Byte} {more : List Byte} (h : s.decupReply = c :: more) :
    replyDecupStep s = { s with decupReply := more } := by
  rw [replyDecupStep, h, List.drop_one, List.tail_cons]

theorem step_replyDecup {s : State} {rest : List Move} (hnext : NextIs s .replyDecup rest) :
    step s = .next (replyDecupStep (took rest s)) :=
  step_of_moveStep hnext rfl

/-! ### The end of the transmission (R405) -/

theorem step_uTx_done {s : State} {rest : List Move} {ok : Bool} {m : Mode} {pkt : List Byte}
    (hnext : NextIs s (.decupdrv ok) rest) (hp : s.decup.phase = .uTx) (hm : s.decup.mode = some m)
    (hc : s.decup.cur = some pkt) (ht : s.decup.txEnd ≤ s.now) (hcutout : cutoutDue Config.params s = false) :
    step s = .next (decupTxDone Config.params m pkt (took rest s)) := by
  have hdue : decupTxDue (took rest s) = true := by simp [decupTxDue, hp, ht]
  have hmay : class2May Config.params (took rest s) = true := congrArg not hcutout
  refine step_of_moveStep hnext ?_
  simp only [moveStep, decupMove, hdue, hmay, decupAct, took_decup, hp, hm, hc, Bool.and_true, if_true]

/-! ### The polls (R407, R411, R412) -/

/-- The first window ends at the first edge (R407). -/
theorem decupWin1_of_edge {s : State} (h : 1 ≤ s.decup.edges) :
    decupWin1 s = { s with decup := { s.decup with t2 := s.now + decupSecondUs, phase := .uWin2 } } :=
  if_pos h

/-- Silence gives the count 0 (R407). -/
theorem decupWin1_of_silence {s : State} (h : s.decup.edges = 0) :
    decupWin1 s = { s with decup := { s.decup with raw := 0, settleEnd := s.now + decupSettleUs, phase := .uSettle } } :=
  if_neg (by simp [h])

section
variable {s : State} {rest : List Move} {ok : Bool}
variable (hnext : NextIs s (.decupdrv ok) rest) (hcutout : cutoutDue Config.params s = false) (htx : class2Due s = false)
include hnext hcutout htx

/-- A poll that is due is taken where no step of class 1 or 2 is (R511). -/
theorem step_decupPoll (hp : s.decup.phase ∈ decupPollPhases) (hdue : decupPollDue Config.params s = true) :
    step s = .next { decupAct Config.params ok (took rest s) with polled := true } := by
  have hdue' : decupPollDue Config.params (took rest s) = true := hdue
  have hmay : class4May Config.params (took rest s) = true :=
    Bool.and_eq_true_iff.mpr ⟨congrArg not hcutout, congrArg not htx⟩
  refine step_of_moveStep hnext ?_
  rw [moveStep, decupMove_of_poll (s := took rest s) hp, hdue', hmay]
  rfl

theorem step_decupWin1 (hp : s.decup.phase = .uWin1) (hdue : 1 ≤ s.decup.edges ∨ s.decup.winDeadline ≤ s.now) :
    step s = .next { decupWin1 (took rest s) with polled := true } := by
  rw [step_decupPoll hnext hcutout htx (by simp [hp, decupPollPhases]) (by simpa [decupPollDue, hp] using hdue)]
  simp only [decupAct, took_decup, hp]

theorem step_decupWin2 (hp : s.decup.phase = .uWin2) (hdue : s.decup.t2 ≤ s.now) :
    step s = .next { decupWin2 (took rest s) with polled := true } := by
  rw [step_decupPoll hnext hcutout htx (by simp [hp, decupPollPhases]) (by simpa [decupPollDue, hp] using hdue)]
  simp only [decupAct, took_decup, hp]

theorem step_decupSettle {m : Mode} {pkt : List Byte} (hp : s.decup.phase = .uSettle) (hm : s.decup.mode = some m)
    (hc : s.decup.cur = some pkt) (hdue : s.decup.settleEnd ≤ s.now)
    (hroom : s.decupReply.length < Config.params.replyCap) :
    step s = .next { decupSettle Config.params m pkt (took rest s) with polled := true } := by
  rw [step_decupPoll hnext hcutout htx (by simp [hp, decupPollPhases]) (by simp [decupPollDue, hp, hdue, hroom])]
  simp only [decupAct, took_decup, hp, hm, hc]

end

/-- Settles O52: edges in the windows and outside, the reply consumer, the end of the transmission, and the polls. -/
theorem decupAckDetection : Obligations.DecupAckDetection := by
  refine ⟨fun s rest hnext hmay hmdu hp => step_edge_of_window hnext hmay hmdu hp, fun s rest hnext h1 h2 => ?outside,
    fun s rest hnext => ?reply, fun s rest ok m pkt hnext hm hc hcutout => ?driver⟩
  case outside =>
    have hstep := step_edge_of_outside hnext h1 h2
    refine ⟨⟨_, hstep, ?_⟩, fun hmdu => ?_⟩
    · split
      · exact mduCapture_decup
      · rfl
    · rw [hstep, mduCapture_of_not_mTx (s := took rest s) hmdu, ite_self]
  case reply =>
    have hstep := step_replyDecup hnext
    exact ⟨fun c more hq => hstep.trans (congrArg _ (replyDecupStep_of_cons (s := took rest s) hq)),
      fun hq => hstep.trans (congrArg _ (replyDecupStep_held (s := took rest s) hq))⟩
  case driver =>
    refine ⟨fun hp ht => step_uTx_done hnext hp hm hc ht hcutout, fun htx =>
      ⟨fun hp hedge => ?firstEdge, fun hp hedge hdue => ?silence, fun hp hdue => step_decupWin2 hnext hcutout htx hp hdue,
        fun hp hdue hroom code hcode => ?settle⟩⟩
    case firstEdge =>
      rw [step_decupWin1 hnext hcutout htx hp (.inl hedge), decupWin1_of_edge (s := took rest s) hedge]
      rfl
    case silence =>
      rw [step_decupWin1 hnext hcutout htx hp (.inr hdue), decupWin1_of_silence (s := took rest s) hedge]
      rfl
    case settle =>
      subst hcode
      exact step_decupSettle hnext hcutout htx hp hm hc hdue hroom

end Sys2Proof.Machine
end

section
/-! A session of MDUDRV (R431, R433, R435, R437, R438), and its ACK detection (R436, R439, R441, R442). -/

namespace Sys2Proof.Machine

/-! ### The phases of a session, by result -/

section
variable {P : Params} {s : State} {m : Mode}

/-- The entry latches the settings and starts at the default rate, with nothing captured (R431). -/
theorem mduInit_of_settings {pre ackreq lim : Byte} (hpre : s.cfg.mduPreamble = some pre)
    (hackreq : s.cfg.mduAckreq = some ackreq) (hlim : s.cfg.currentLimit = some lim) :
    mduInit P true s =
      { s with
        act := s.cfg
        curLim := lim.setWidth 2
        mdu :=
          { s.mdu with
            rate := P.mduDefaultRate, capture := none, exitTimeout := false, phase := .mCheck
            idleDeadline := s.now + P.sessionTimeoutMdu } } := by
  simp only [mduInit, getSetting, hpre, hackreq, hlim, if_true]

theorem mduInit_of_hwFail {pre ackreq lim : Byte} (hpre : s.cfg.mduPreamble = some pre)
    (hackreq : s.cfg.mduAckreq = some ackreq) (hlim : s.cfg.currentLimit = some lim) :
    mduInit P false s = raiseFault .hwFail .mdudrv (.mdudrv .mInit) s := by
  simp only [mduInit, getSetting, hpre, hackreq, hlim, Bool.false_eq_true, if_false]

/-- The entry needs all three settings (R431, R504). -/
theorem mduInit_of_missing (h : s.cfg.mduPreamble = none ∨ s.cfg.mduAckreq = none ∨ s.cfg.currentLimit = none)
    (ok : Bool) : mduInit P ok s = raiseFault .uninitSetting .mdudrv (.mdudrv .mInit) s := by
  unfold mduInit
  split
  next hpre hackreq hlim =>
    rcases h with h | h | h
    · cases h.symm.trans hpre
    · cases h.symm.trans hackreq
    · cases h.symm.trans hlim
  next => rfl

theorem mduCheck_of_exit (h : s.arbState = stSuspend ∨ s.arbState = stShort) :
    mduCheck s = { s with mdu := { s.mdu with phase := .mTeardown } } :=
  if_pos h

theorem mduCheck_of_mode (hm : s.mdu.mode = some m) (h : s.arbState = modeValue m) :
    mduCheck s = { s with mdu := { s.mdu with phase := .mWaitPkt } } := by
  rw [mduCheck, if_neg (not_exit_of_mode h), hm, Option.map_some, h, if_pos rfl]

theorem mduCheck_of_foreign (hm : s.mdu.mode = some m) (hsuspend : s.arbState ≠ stSuspend)
    (hshort : s.arbState ≠ stShort) (h : s.arbState ≠ modeValue m) :
    mduCheck s = raiseFault .arbInvariant .mdudrv (.mdudrv .mCheck) s := by
  rw [mduCheck, if_neg (not_or.mpr ⟨hsuspend, hshort⟩), hm, Option.map_some,
    if_neg fun hmode => h (Option.some.inj hmode).symm]

theorem mduWaitPkt_of_left (h : s.arbState ≠ modeValue m) :
    mduWaitPkt P m s = { s with mdu := { s.mdu with phase := .mCheck } } :=
  if_pos h

/-- The oldest packet is transmitted at the present rate, and its first symbol is the timer base (R435 (b)). -/
theorem mduWaitPkt_of_packet {pkt : List Byte} {more : List (List Byte)} {pre ackreq : Byte} {syms : List Symbol}
    (h : s.arbState = modeValue m) (hq : s.mduInq = pkt :: more) (hpre : s.act.mduPreamble = some pre)
    (hackreq : s.act.mduAckreq = some ackreq) (hsyms : syms = P.mduSymbols pkt pre ackreq (P.mduRates s.mdu.rate)) :
    mduWaitPkt P m s =
      { s with
        mduInq := more
        track := s.track ++ syms.map fun x => (m, x)
        mdu :=
          { s.mdu with
            cur := some pkt, capture := none, timerBase := s.now, phase := .mTx, txEnd := s.now + symbolsDur syms } } := by
  simp only [mduWaitPkt, if_neg (not_not.mpr h), hq, getSetting, hpre, hackreq, ← hsyms]
  rfl

theorem mduWaitPkt_of_timeout (h : s.arbState = modeValue m) (hq : s.mduInq = []) (ht : s.mdu.idleDeadline ≤ s.now) :
    mduWaitPkt P m s = { s with mdu := { s.mdu with exitTimeout := true, phase := .mTeardown } } := by
  simp only [mduWaitPkt, if_neg (not_not.mpr h), hq, if_pos ht]

/-- The teardown empties the queues, restores the default rate and makes the terminal write (R208, R438). -/
theorem mduTeardown_of_leaving (hm : s.mdu.mode = some m)
    (h : s.arbState = stSuspend ∨ s.arbState = stShort ∨ s.arbState = modeValue m) :
    mduTeardown P true s =
      { s with
        mduInq := [], mduReply := []
        arbState := if s.arbState = stShort then stShort else stSuspended
        mdu :=
          { s.mdu with
            capture := none, rate := P.mduDefaultRate, mode := none, cur := none, exitTimeout := false
            phase := .mIdle } } := by
  simp only [mduTeardown, if_true, hm, terminalValue_of_leaving h]
  rfl

theorem mduTeardown_of_hwFail : mduTeardown P false s = raiseFault .hwFail .mdudrv (.mdudrv .mTeardown) s := rfl

end

/-! ### The steps of a session -/

/-- The phases in which MDUDRV's step is not urgent (R510). -/
def mduSessionPhases : List MduPhase :=
  [.mIdle, .mInit, .mCheck, .mWaitPkt, .mTeardown]

theorem mduMove_of_session {P : Params} {ok : Bool} {s : State} (h : s.mdu.phase ∈ mduSessionPhases) :
    mduMove P ok s = mduAct P ok s := by
  simp only [mduSessionPhases, List.mem_cons, List.not_mem_nil, or_false] at h
  rcases h with h | h | h | h | h <;> simp only [mduMove, h]

section
variable {s : State} {rest : List Move} {ok : Bool} {m : Mode}
variable (hnext : NextIs s (.mdudrv ok) rest)
include hnext

/-- MDUDRV's step outside its urgent phases. -/
theorem step_mduSession (hp : s.mdu.phase ∈ mduSessionPhases) :
    step s = .next (mduAct Config.params ok (took rest s)) :=
  step_of_moveStep hnext (congrArg (Advance.run []) (mduMove_of_session (s := took rest s) hp))

theorem step_mduInit (hp : s.mdu.phase = .mInit) : step s = .next (mduInit Config.params ok (took rest s)) := by
  rw [step_mduSession hnext (by simp [hp, mduSessionPhases])]
  simp only [mduAct, took_mdu, hp]

theorem step_mduCheck (hp : s.mdu.phase = .mCheck) : step s = .next (mduCheck (took rest s)) := by
  rw [step_mduSession hnext (by simp [hp, mduSessionPhases])]
  simp only [mduAct, took_mdu, hp]

theorem step_mduWaitPkt (hp : s.mdu.phase = .mWaitPkt) (hm : s.mdu.mode = some m) :
    step s = .next (mduWaitPkt Config.params m (took rest s)) := by
  rw [step_mduSession hnext (by simp [hp, mduSessionPhases])]
  simp only [mduAct, took_mdu, hp, hm]

theorem step_mduTeardown (hp : s.mdu.phase = .mTeardown) :
    step s = .next (mduTeardown Config.params ok (took rest s)) := by
  rw [step_mduSession hnext (by simp [hp, mduSessionPhases])]
  simp only [mduAct, took_mdu, hp]

/-- From `tx_end` on the packet is evaluated, unless an alarm of the cutout comes first (R437, R511). -/
theorem step_mTx_done (hp : s.mdu.phase = .mTx) (ht : s.mdu.txEnd ≤ s.now)
    (hcutout : cutoutDue Config.params s = false) :
    step s = .next { took rest s with mdu := { s.mdu with phase := .mEval } } := by
  have hdue : mduTxDue (took rest s) = true := by simp [mduTxDue, hp, ht]
  have hmay : class2May Config.params (took rest s) = true := congrArg not hcutout
  refine step_of_moveStep hnext ?_
  simp only [moveStep, mduMove, hdue, hmay, mduAct, took_mdu, hp, Bool.and_true, if_true]

/-- An evaluation with space for the reply is taken where no step of class 1 or 2 is (R439, R511). -/
theorem step_mduEval {pkt : List Byte} (hp : s.mdu.phase = .mEval) (hc : s.mdu.cur = some pkt)
    (hcutout : cutoutDue Config.params s = false) (htx : class2Due s = false)
    (hroom : s.mduReply.length < Config.params.replyCap) :
    step s = .next { mduEval Config.params pkt (took rest s) with polled := true } := by
  have hdue : mduPollDue Config.params (took rest s) = true := by simp [mduPollDue, hp, hroom]
  have hmay : class4May Config.params (took rest s) = true :=
    Bool.and_eq_true_iff.mpr ⟨congrArg not hcutout, congrArg not htx⟩
  refine step_of_moveStep hnext ?_
  simp only [moveStep, mduMove, hdue, hmay, mduAct, took_mdu, hp, hc, Bool.and_true, if_true]

end

/-- Settles O51: the init, the check, the wait, the end of a transmission and the teardown, each by what its phase finds, and their
faults. -/
theorem mduSession : Obligations.MduSession := by
  intro s rest ok m hnext hm
  have hinit := step_mduInit hnext
  have hcheck := step_mduCheck hnext
  have hwait := fun hp => step_mduWaitPkt hnext hp hm
  have hteardown := step_mduTeardown hnext
  refine ⟨fun hp hmissing _ => ?initMissing, fun pre ackreq lim hp hpre hackreq hlim hok => ?initHwFail,
    fun hp hsuspend hshort hv => ?checkForeign, fun hp _ hok => ?teardownHwFail,
    fun pre ackreq lim hp hpre hackreq hlim hok => ?initDone, fun hp hv => ?checkExit, fun hp hv => ?checkMode,
    fun hp hv => ?waitLeft, fun pkt more pre ackreq syms hp hv hq hpre hackreq hsyms => ?waitPacket,
    fun hp hv hq ht => ?waitTimeout, fun hp ht hcutout => step_mTx_done hnext hp ht hcutout,
    fun hp hv hok => ?teardownDone⟩
  case initMissing => exact (hinit hp).trans (congrArg _ (mduInit_of_missing (s := took rest s) hmissing ok))
  case initHwFail =>
    subst hok
    exact (hinit hp).trans (congrArg _ (mduInit_of_hwFail (s := took rest s) hpre hackreq hlim))
  case initDone =>
    subst hok
    exact (hinit hp).trans (congrArg _ (mduInit_of_settings (s := took rest s) hpre hackreq hlim))
  case checkForeign =>
    exact (hcheck hp).trans (congrArg _ (mduCheck_of_foreign (s := took rest s) hm hsuspend hshort hv))
  case checkExit => exact (hcheck hp).trans (congrArg _ (mduCheck_of_exit (s := took rest s) hv))
  case checkMode => exact (hcheck hp).trans (congrArg _ (mduCheck_of_mode (s := took rest s) hm hv))
  case waitLeft => exact (hwait hp).trans (congrArg _ (mduWaitPkt_of_left (s := took rest s) hv))
  case waitPacket =>
    exact (hwait hp).trans (congrArg _ (mduWaitPkt_of_packet (s := took rest s) hv hq hpre hackreq hsyms))
  case waitTimeout => exact (hwait hp).trans (congrArg _ (mduWaitPkt_of_timeout (s := took rest s) hv hq ht))
  case teardownHwFail =>
    subst hok
    exact (hteardown hp).trans (congrArg _ mduTeardown_of_hwFail)
  case teardownDone =>
    subst hok
    exact (hteardown hp).trans (congrArg _ (mduTeardown_of_leaving (s := took rest s) hm hv))

/-! ### Edges (R436) -/

/-- In a transmission the first edge is captured and stays (R436). -/
theorem mduCapture_of_mTx {P : Params} {s : State} (hp : s.mdu.phase = .mTx) (ht : s.now - s.mdu.timerBase < 2 ^ 32) :
    mduCapture P s =
      { s with
        mdu := { s.mdu with capture := s.mdu.capture.or (some (BitVec.ofNat 32 (s.now - s.mdu.timerBase))) } } := by
  cases hc : s.mdu.capture with
  | none => simp only [mduCapture, hp, hc, captureCount, if_pos ht, Option.none_or]
  | some c =>
    have hkept : mduCapture P s = s := by simp only [mduCapture, hp, hc]
    rw [hkept, Option.some_or, ← hc]

/-- DECUPEDGE writes DECUP's registers alone (R406). -/
theorem decupEdge_restore (s : State) : { decupEdge s with decup := s.decup } = s := by
  unfold decupEdge
  split <;> rfl

/-! ### The reply consumer (R442) -/

theorem replyMduStep_of_cons {s : State} {c : Byte} {more : List Byte} (h : s.mduReply = c :: more) :
    replyMduStep s = { s with mduReply := more } := by
  rw [replyMduStep, h, List.drop_one, List.tail_cons]

theorem step_replyMdu {s : State} {rest : List Move} (hnext : NextIs s .replyMdu rest) :
    step s = .next (replyMduStep (took rest s)) :=
  step_of_moveStep hnext rfl

/-! ### The evaluation (R439, R441) -/

theorem mduCode_of_silence (counts : Nat × Nat) : mduCode none counts = 0 := rfl

/-- The nearer of the two expected counts gives the code, and a tie is short (R439). -/
theorem mduCode_of_capture (c : BitVec 32) (short long : Nat) :
    mduCode (some c) (short, long) =
      if ((c.toNat : Int) - short).natAbs ≤ ((c.toNat : Int) - long).natAbs then 1 else 2 := rfl

/-- A `ConfigTransferRate` packet sets the rate it asks for where no ack came, and the fallback rate where one did (R441). -/
theorem mduNextRate_eq (P : Params) (pkt : List Byte) (code rate : Byte) :
    mduNextRate P pkt code rate =
      if P.mduIsCtr pkt = true then (if code = 0 then P.mduCtrRate pkt else P.mduFallbackRate) else rate := by
  rw [mduNextRate, ite_not]

/-- The evaluation answers its code on the reply queue and the event port, and sets the rate (R439, R441). -/
theorem mduEval_of_code {P : Params} {s : State} {pkt : List Byte} {pre ackreq code : Byte}
    (hpre : s.act.mduPreamble = some pre) (hackreq : s.act.mduAckreq = some ackreq)
    (hcode : code = mduCode s.mdu.capture (P.mduExpectedCounts pkt pre ackreq (P.mduRates s.mdu.rate))) :
    mduEval P pkt s =
      { s with
        mduReply := s.mduReply ++ [code]
        events := s.events ++ [eventWord 0x08#8 0 0 code]
        mdu :=
          { s.mdu with
            rate :=
              if P.mduIsCtr pkt = true then (if code = 0 then P.mduCtrRate pkt else P.mduFallbackRate) else s.mdu.rate
            cur := none
            capture := none
            idleDeadline := s.now + P.sessionTimeoutMdu
            phase := .mCheck } } := by
  simp only [mduEval, getSetting, hpre, hackreq, ← hcode, mduNextRate_eq]
  rfl

/-- Settles O53: edges in a transmission and outside, the reply consumer, and the evaluation without and with a capture. -/
theorem mduAckDetection : Obligations.MduAckDetection := by
  refine ⟨fun s rest hnext hmay h1 h2 hp ht => ?first, fun s rest hnext hp => ?outside, fun s rest hnext => ?reply,
    fun s rest ok pkt pre ackreq code hnext hp hc hpre hackreq hcutout htx hroom hcode => ?eval⟩
  case first =>
    rw [step_edge_of_outside hnext h1 h2, if_pos hmay, mduCapture_of_mTx (s := took rest s) hp ht, took_mdu, took_now]
    cases s.mdu.capture <;> rfl
  case outside =>
    have hcapture : mduCapture Config.params (decupEdge (took rest s)) = decupEdge (took rest s) :=
      mduCapture_of_not_mTx (by simpa using hp)
    refine ⟨_, step_edge hnext, ?_⟩
    rw [hcapture]
    split
    · exact ⟨decupEdge_mdu, decupEdge_restore (took rest s)⟩
    · exact ⟨rfl, rfl⟩
  case reply =>
    have hstep := step_replyMdu hnext
    exact ⟨fun c more hq => hstep.trans (congrArg _ (replyMduStep_of_cons (s := took rest s) hq)),
      fun hq => hstep.trans (congrArg _ (replyMduStep_held (s := took rest s) hq))⟩
  case eval =>
    have hmodel : code =
        mduCode s.mdu.capture
          (Config.params.mduExpectedCounts pkt pre ackreq (Config.params.mduRates s.mdu.rate)) := by
      rcases hcode with ⟨hcap, rfl⟩ | ⟨c, short, long, hcap, hcounts, rfl⟩
      · rw [hcap, mduCode_of_silence]
      · rw [hcap, hcounts, mduCode_of_capture]
    rw [step_mduEval hnext hp hc hcutout htx hroom, mduEval_of_code (s := took rest s) hpre hackreq hmodel]
    rfl

end Sys2Proof.Machine
end

section
/-! A sample of the service ACK detector: the window, and the pulse test on it (R461, R463). -/

namespace Sys2Proof.Machine

/-! ### The sample, by phase (R461, R463) -/

/-- Where the window is cut is counted before the sample joins it. -/
theorem windowPush_eq (win : List (BitVec 16)) (x : BitVec 16) :
    windowPush win x = (win ++ [x]).drop (win.length + 1 - 200) := by
  rw [windowPush, List.length_append, List.length_singleton, ackWindow]

/-- Both comparisons are strict (R463). -/
theorem ackPulse_eq_decide (sum ref current zeros : Nat) :
    ackPulse sum ref current zeros = decide (ref + 200 * current < sum ∧ 10 * zeros < 200) :=
  (Bool.decide_and _ _).symm

section
variable {s : State} {x : BitVec 16} {win : List (BitVec 16)}

theorem sampleStep_of_off (hp : s.svcack.phase = .aOff) : sampleStep x s = s := by
  simp only [sampleStep, hp]

theorem sampleStep_of_idle (hp : s.svcack.phase = .aIdle) (hwin : windowPush s.svcack.win x = win) :
    sampleStep x s =
      { s with svcack := { s.svcack with win := win, sum := windowSum win, zeros := windowZeros win } } := by
  simp only [sampleStep, svcAckSample, hp, hwin]

/-- A window that is not full is not tested (R463). -/
theorem sampleStep_of_armed_partial (hp : s.svcack.phase = .aArmed) (hwin : windowPush s.svcack.win x = win)
    (hlen : win.length ≠ ackWindow) :
    sampleStep x s =
      { s with svcack := { s.svcack with win := win, sum := windowSum win, zeros := windowZeros win } } := by
  simp only [sampleStep, svcAckSample, hp, hwin, if_neg hlen]

/-- A full window is tested, and a pulse that was seen stays seen (R463). -/
theorem sampleStep_of_armed_full {ref current : Nat} (hp : s.svcack.phase = .aArmed)
    (hwin : windowPush s.svcack.win x = win) (hlen : win.length = ackWindow) (href : s.svcack.ref = some ref)
    (hcurrent : settingNat s.act .programmingAckCurrent = some current) :
    sampleStep x s =
      { s with
        svcack :=
          { s.svcack with
            win := win, sum := windowSum win, zeros := windowZeros win
            ackSeen := s.svcack.ackSeen || ackPulse (windowSum win) ref current (windowZeros win) } } := by
  simp only [sampleStep, svcAckSample, hp, hwin, if_pos hlen, href, hcurrent]

end

/-- `@SAMPLE x` reaches the detector where environment inputs may come (R461, log 12). -/
theorem step_sample {s : State} {rest : List Move} {x : BitVec 16} (hnext : NextIs s (.sample x) rest)
    (hmay : class3May Config.params s = true) : step s = .next (sampleStep x (took rest s)) := by
  have hmay' : class3May Config.params (took rest s) = true := hmay
  refine step_of_moveStep hnext ?_
  rw [moveStep, envMove, if_pos hmay']

/-- Settles O54: a sample off, idle or before the window is full, and the test of a full window. -/
theorem ackDetection : Obligations.AckDetection := by
  intro s rest x win hnext hmay hcut
  have hstep := step_sample hnext hmay
  have hwin : windowPush s.svcack.win x = win := by rw [windowPush_eq, hcut]
  refine ⟨fun hp => ?off, fun h => ?kept, fun ref cur hp hlen href hcur => ?tested⟩
  case off => exact hstep.trans (congrArg _ (sampleStep_of_off (s := took rest s) hp))
  case kept =>
    rcases h with hp | ⟨hp, hlen⟩
    · exact hstep.trans (congrArg _ (sampleStep_of_idle (s := took rest s) hp hwin))
    · exact hstep.trans (congrArg _ (sampleStep_of_armed_partial (s := took rest s) hp hwin hlen))
  case tested =>
    have hcurrent : settingNat s.act .programmingAckCurrent = some cur.toNat := settingNat_of_getSetting hcur
    rw [hstep, sampleStep_of_armed_full (s := took rest s) hp hwin hlen href hcurrent, ackPulse_eq_decide]
    rfl

end Sys2Proof.Machine
end

section
/-! Reset and faults (R600, R503, R504): the state after reset meets every invariant, so it is a first state of the step lemmas that
keep them; and a fault is final. -/

namespace Sys2Proof.Machine

/-! ### The invariants after reset (R600) -/

/-- `STATE` is `Suspended` and no driver is engaged (R211). -/
theorem reset_arbInv : ArbInv State.reset :=
  have hquiet : quietView (arbView State.reset) = true := rfl
  arbViewInv_suspended_of_quiet hquiet rfl

/-- The loco table is empty, and `PRIORITY_COUNT` is the least priority of every parameter set (R25). -/
theorem reset_locoInv : LocoInv Config.params State.reset where
  canonical := reset_locosWf
  capacity := Nat.zero_le _
  entries := List.forall_mem_nil _
  count := ⟨Nat.le_refl _, minPriority_le_maxPriority⟩

/-- No packet is queued, waits, is sent or is repeated (R30). -/
theorem reset_packetInv : PacketInv State.reset where
  front := List.forall_mem_nil _
  back := List.forall_mem_nil _
  pending _ h := nomatch h
  current _ h := nomatch h
  attempt _ h := nomatch h

/-- The ten queues are empty, so they fit in any capacity (R30 to R36). -/
theorem reset_queueInv (P : Params) : QueueInv P State.reset := by
  constructor <;> exact Nat.zero_le _

/-- The counters of the DECUP detector are 0, and no code waits (R41). -/
theorem reset_codeInv : CodeInv State.reset where
  edges := Nat.zero_le _
  raw := Nat.zero_le _
  decupCodes := List.forall_mem_nil _
  mduCodes := List.forall_mem_nil _

/-- The window is empty, and 0 is its sum and its count of zeros (R40). -/
theorem reset_ackInv : AckInv State.reset where
  window := Nat.zero_le _
  sum := rfl
  zeros := rfl

/-! ### Faults (R503, R504) -/

/-- No setting has a value in an empty register file (R26, R27). -/
theorem getSetting_empty (x : Setting) : getSetting {} x = none := by
  cases x <;> rfl

/-- A fault leaves the code of its class in `FATAL.class` (R44, R503). -/
theorem fatalCode_raiseFault (cls : FaultClass) (agent : Agent) (p : PhaseName) (s : State) :
    fatalCode (raiseFault cls agent p s) = some (fatalClassCode cls) := by
  rw [fatalCode, raiseFault_fatal, Option.map_some]

/-- While `FATAL` is set every step answers it (R504 (b), log 21). -/
theorem step_of_fatal {s : State} {r : FatalRecord} (h : s.fatal = some r) : step s = .fault (.fatal r) := by
  simp only [step, h]

/-- Settles O60: the elements of R600, the six invariants, the codes of R503 and the stop of R504 (b). -/
theorem resetAndFatal : Obligations.ResetAndFatal := by
  refine ⟨?elements, ?invariants, ?codes, fun _ _ h => step_of_fatal h⟩
  case elements =>
    refine ⟨rfl, rfl, rfl, getSetting_empty, getSetting_empty, ?others⟩
    and_intros <;> rfl
  case invariants =>
    exact ⟨reset_arbInv, reset_locoInv, reset_packetInv, reset_queueInv Config.params, reset_codeInv, reset_ackInv⟩
  case codes => exact ⟨rfl, rfl, rfl, fatalCode_raiseFault⟩

end Sys2Proof.Machine
end
